-- ==== Sys2Proof/Word.lean ====
section
/-! DEFINITION. The word types of the framing block (spec/00_scope.md R4, R5). -/

namespace Sys2Proof

/-- A byte: "a byte is 8 bits" (R4). -/
abbrev Byte := BitVec 8

/-- A 16-bit value: the wire `length`, the byte counter, a pin identifier (R4, R16). -/
abbrev Half := BitVec 16

/-- An event word, `EVENT_W` = 32 bits (R5, R130); also the SPI frequency (R4). -/
abbrev Word := BitVec 32

/-! A handle is the index of a packet buffer (R76): a plain number, which the document never adds, shifts or masks. Its
width at a port is `Params.handleW`. -/

end Sys2Proof
end

