-- ==== Sys2Proof/Config.lean ====
section
/-! DEFINITION. What an implementation fixes (the named parameters of spec/00_scope.md R3 and of the table at the
end of spec/92_eei_decisions.md), and the free values: uninterpreted constants for what the spec leaves open. -/

namespace Sys2Proof

/-- The parameters of R3. Every rule is written over these names. They are constant through a run: no operation
writes them (R21; notes/assumptions/1.md). The OPEN parameter `alloc_choice` (D8) is the field `allocChoice` of State. -/
structure Params where
  /-- `N_PACKETS`: number of packet buffers in the pool. -/
  nPackets : Nat
  /-- `MAX_PAYLOAD`: largest accepted `length`, and the size in bytes of every payload array. -/
  maxPayload : Nat
  /-- `PQ_CAP`: capacity of the packet queue. -/
  pqCap : Nat
  /-- `EQ_CAP`: capacity of the event queue. -/
  eqCap : Nat
  /-- `TAG_MIN`: lowest valid command tag. -/
  tagMin : Nat
  /-- `TAG_MAX`: highest valid command tag. -/
  tagMax : Nat
  deriving DecidableEq, Repr

namespace Params

/-- The defaults of R3: the document's own numbers. -/
def default : Params :=
  { nPackets := 5, maxPayload := 512, pqCap := 5, eqCap := 5, tagMin := 0x01, tagMax := 0x09 }

/-- The constraints of R3. -/
abbrev ok (p : Params) : Prop :=
  1 ≤ p.nPackets ∧ 1 ≤ p.maxPayload ∧ p.maxPayload ≤ 65535 ∧ 1 ≤ p.pqCap ∧ 1 ≤ p.eqCap ∧
    p.tagMin ≤ p.tagMax ∧ p.tagMax ≤ 0xFF

/-- `HANDLE_W`: "the least width that holds `N_PACKETS` − 1, at least 1"; 3 at the default (R5, D7). -/
def handleW (p : Params) : Nat := Nat.log2 (p.nPackets - 1) + 1

/-- Bytes of one packet buffer: `command` (1), `length` (2), `payload` (`MAX_PAYLOAD`) (R11, R40). -/
def bufBytes (p : Params) : Nat := p.maxPayload + 3

/-- Size of the buffer space in bytes (R40): 2575 at the default. -/
def bufSpace (p : Params) : Nat := p.nPackets * p.bufBytes

end Params

namespace Config

/-- FREE VALUE (R27, U8). What a byte of the buffer space reads as that nothing has written since reset number
`epoch`, at address `addr` (DESIGN CHOICE: notes/assumptions/8.md). -/
opaque freeByte (epoch addr : Nat) : Byte

/-- FREE VALUE (R27, U8). The contents of `cur` after reset number `epoch` (DESIGN CHOICE: notes/assumptions/6.md). -/
opaque freeCur (epoch : Nat) : Nat

/-- FREE VALUE (R27, U8). The contents of `PQ.slot[i]` after reset number `epoch` (DESIGN CHOICE:
notes/assumptions/6.md). -/
opaque freePqSlot (epoch i : Nat) : Nat

/-- FREE VALUE (R27, U8). The contents of `EQ.slot[i]` after reset number `epoch` (DESIGN CHOICE:
notes/assumptions/6.md). -/
opaque freeEqSlot (epoch i : Nat) : Word

/-- FREE VALUE (R44 case a, U3). What BUF.READ answers for a payload byte at or beyond `length`: leftovers of earlier
frames. It depends on the reset number, on how many payload stores have happened, and on the address, so that
two reads with no store between them agree (R46) (DESIGN CHOICE: notes/assumptions/9.md). -/
opaque staleByte (epoch stores addr : Nat) : Byte

/-- FREE VALUE (U5, U19). The boolean result of adapter call number `call`, where the input list of replies
has none for it (DESIGN CHOICE: notes/assumptions/18.md). -/
opaque adapterOk (call : Nat) : Bool

/-- FREE VALUE (R164, U4, D32). Byte `i` of the receive buffer of adapter call number `call` where the adapter wrote
nothing: whatever the scratch buffer held (DESIGN CHOICE: notes/assumptions/20.md). -/
opaque scratchByte (call i : Nat) : Byte

end Config

end Sys2Proof
end

