-- ==== Sys2Proof/Syntax.lean ====
section
/-! DEFINITION. The contexts, the transactions and the operations of the block: one constructor of `Instr` for every
row of spec/opcode_table.json (R75). -/

namespace Sys2Proof

/-- Who invokes an operation: the four execution contexts of R140, the platform (R210), and `reentry`, an interrupt
handler entered again before it has ended, which no rule allows (R195, U16). The context is an operand of the operation:
notes/assumptions/11.md. -/
inductive Ctx where
  /-- Serial-receive interrupt context: FrameParser. -/
  | irx
  /-- GPIO-edge interrupt context: InterruptEventRelay. -/
  | igpio
  /-- Worker context of the CommandDispatcher. -/
  | wdisp
  /-- Worker context of the event forwarder. -/
  | wevt
  /-- The platform, which issues RESET. -/
  | platform
  /-- An interrupt-context operation re-entered before its first invocation ended. -/
  | reentry
  deriving DecidableEq, Repr

/-- The parser sequencing state `ps` (R12): exactly four values. -/
inductive ParserState where
  | readCommand
  | readLenLow
  | readLenHigh
  | readData
  deriving DecidableEq, Repr

/-- The 2-bit code of `ps` (R12, D3). -/
def ParserState.code : ParserState → BitVec 2
  | .readCommand => 0
  | .readLenLow => 1
  | .readLenHigh => 2
  | .readData => 3

/-- The field selector of BUF.READ (R44, R150). -/
inductive BufField where
  | command
  | length
  | payload (off : Half)
  deriving DecidableEq, Repr

/-- The selector of a transaction: "each is selected by the port it arrives at" (spec/30_encoding.md). The seven ports of
R150, then the operations internal to the block that the opcode table lists (R75), which only a test harness
presents by themselves (R99), then the two selectors of the environment (DESIGN CHOICE: notes/assumptions/3.md, 12.md). -/
inductive Port where
  /-- RX: one byte of the inbound stream, decoded by position (R68). -/
  | rx
  /-- RX before decoding by position: the table's row RX_BYTE. -/
  | rxOp
  /-- EDGE: the 17 bits of R131, is_rising above pin. -/
  | edge
  /-- PQGET. -/
  | pqGet
  /-- BUFRD. -/
  | bufRd
  /-- REL. -/
  | rel
  /-- EQGET. -/
  | eqGet
  /-- RST. -/
  | rst
  /-- Internal: POOL.ALLOC. -/
  | alloc
  /-- Internal: PQ.TRY_PUT. -/
  | pqPut
  /-- Internal: EQ.TRY_PUT. -/
  | eqPut
  /-- Internal procedure EMIT. -/
  | emit
  /-- Internal procedure ABORT. -/
  | abort
  /-- A handle presented by itself (R76). -/
  | handle
  /-- An event word presented by itself (R77). -/
  | word
  /-- The `case cmd of` of a worker (R161): a tag byte, decoded by the tag table, in the caller's context. -/
  | cmd
  /-- The calling worker takes the next step of its own loop (R161, R170). -/
  | run
  deriving DecidableEq, Repr

/-- One transaction: "one operation with its operands" (R150), the context that invokes it, and the operand
bits as one number. -/
structure Txn where
  port : Port
  ctx : Ctx
  data : Nat
  deriving DecidableEq, Repr

/-- Why a transaction is no operation of the block. -/
inductive DecodeError where
  /-- Bits are set beyond the operands the port takes. -/
  | operandBits
  /-- BUF.READ with a field selector that names no field. -/
  | noSuchField
  /-- BUF.READ with a payload offset outside 0 .. `MAX_PAYLOAD` − 1 (R40). -/
  | offsetRange
  /-- An event word with any of bits 31..17 set (R77, U14). -/
  | reservedWordBits
  /-- A worker loop step asked of a context that runs no loop. -/
  | noLoop
  deriving DecidableEq, Repr

/-- The operations: one constructor per row of spec/opcode_table.json. A row that more than one context meets carries
the context: a tag byte is received by `irx`, dispatched or sent by `wdisp`, sent by `wevt` (notes/assumptions/13.md). -/
inductive Instr where
  /- frame-tag rows (R63) -/
  | spiSetup (c : Ctx)
  | spiSetupAnswer (c : Ctx)
  | spiTransfer (c : Ctx)
  | spiTransferAnswer (c : Ctx)
  | interruptRegister (c : Ctx)
  | interruptRegisterAnswer (c : Ctx)
  | interruptEvent (c : Ctx)
  | wireReset (c : Ctx)
  | resetAnswer (c : Ctx)
  /- invalid-tag rows (R69): the low bits the row's mask leaves open -/
  | invalidTag00 (c : Ctx)
  | invalidTag0A (c : Ctx) (x : BitVec 1)
  | invalidTag0C (c : Ctx) (x : BitVec 2)
  | invalidTag10 (c : Ctx) (x : BitVec 4)
  | invalidTag20 (c : Ctx) (x : BitVec 5)
  | invalidTag40 (c : Ctx) (x : BitVec 6)
  | invalidTag80 (c : Ctx) (x : BitVec 7)
  /- rx-state rows (R68): a byte received by IRX in that state -/
  | rxReadLenLow (b : Byte)
  | rxReadLenHigh (b : Byte)
  | rxReadData (b : Byte)
  /- port-op rows -/
  | rxByte (c : Ctx) (b : Byte)
  | edge (c : Ctx) (pin : Half) (rising : Bool)
  | poolAlloc (c : Ctx)
  | poolRelease (c : Ctx) (h : Nat)
  | pqTryPut (c : Ctx) (x : Nat)
  | pqGet (c : Ctx)
  | eqTryPut (c : Ctx) (x : Word)
  | eqGet (c : Ctx)
  | bufRead (c : Ctx) (h : Nat) (f : BufField)
  | blockReset (c : Ctx)
  | emit (c : Ctx)
  | abort (c : Ctx)
  /- internal-word rows (R76, R77) -/
  | handle (c : Ctx) (h : Nat)
  | eventWord (c : Ctx) (rising : Bool) (pin : Half)
  deriving DecidableEq, Repr

end Sys2Proof
end

