-- ==== Sys2Proof/Machine/State.lean ====
section
/-! DEFINITION. The machine's state as plain data, the reasons a step can stop, and the state after reset
(spec/10_state.md; the environment's state from spec/45_environment.md R24, R162, R168, R172, R179). -/

namespace Sys2Proof.Machine

/-- Ghost ownership of one buffer (R22): who holds the document's "borrowed reference". -/
inductive Owner where
  /-- In the pool's free set. -/
  | free
  /-- Checked out and held by the parser. -/
  | parser
  /-- Its handle is in `PQ`. -/
  | queued
  /-- Taken from `PQ` by the dispatcher and not yet released. -/
  | worker
  deriving DecidableEq, Repr

/-- The five recovered conditions of R185. `drop` appends one to the ghost log (R23). -/
inductive DropReason where
  | invalidTag
  | oversizeLength
  | noBuffer
  | queueFullFrame
  | queueFullEvent
  deriving DecidableEq, Repr

/-- A bounded queue instance (R18): slot array, producer pointer, consumer pointer. Both pointers range over 0 to
2·`CAP` − 1; pointer `p` addresses slot `p mod CAP`. -/
structure Queue (α : Type) where
  slot : List α
  wr : Nat
  rd : Nat
  deriving DecidableEq, Repr

/-- A frame to be sent: tag and payload (R60, R172). -/
structure Frame where
  tag : Byte
  payload : List Byte
  deriving DecidableEq, Repr

/-- Where the dispatcher stands in its loop (R161, R162); its scratch answer buffer (R168) is the frame of
`answering`. -/
inductive DispPhase where
  /-- Before `Get(PQ)`: it holds no handle. -/
  | idle
  /-- It holds handle `h`; the command is not yet executed. -/
  | holding (h : Nat)
  /-- The command is executed and the answer composed; `send` is not finished. -/
  | answering (h : Nat) (f : Frame)
  /-- The answer, if any, is sent; the release is due. -/
  | answered (h : Nat)
  deriving DecidableEq, Repr

/-- Where the event worker stands in its loop (R170); its own scratch buffer (R168) is the frame of `sending`. -/
inductive EvtPhase where
  /-- Before `Get(EQ)`. -/
  | idle
  /-- It got event word `ev`, not yet decoded. -/
  | holding (ev : Word)
  /-- The InterruptEvent frame is composed; `send` is not finished. -/
  | sending (f : Frame)
  deriving DecidableEq, Repr

/-- The FrameWriter's lock when it is held (R172, R173): by which worker, and the bytes of its frame not yet
written to the transport. -/
structure Writer where
  holder : Ctx
  rest : List Byte
  deriving DecidableEq, Repr

/-- A call the dispatcher makes into an adapter (R177, R178), with its arguments. -/
inductive AdapterCall where
  | spiSetup (freq : Word) (mode : Byte) (pins : List Half)
  | spiTransfer (pin : Half) (tx : List Byte)
  | spiReset
  | gpioRegister (pin : Half) (mode : Byte)
  | gpioReset
  deriving DecidableEq, Repr

/-- What an excluded adapter answers to one call: its boolean result and, for a transfer, the bytes it wrote into the
receive buffer (R177, R178). An input of the machine. -/
structure Reply where
  ok : Bool
  rx : List Byte
  deriving DecidableEq, Repr

/-- The result a transaction hands back at its port (R150). -/
inductive PortOut where
  /-- The operation has no result. -/
  | none
  /-- The caller is held: the transaction has not completed (R97, R172). -/
  | held
  /-- A handle. -/
  | handle (h : Nat)
  /-- POOL.ALLOC's `none` (R81). -/
  | noHandle
  /-- TRY_PUT's answer (R92). -/
  | bool (b : Bool)
  /-- An event word (R93). -/
  | event (ev : Word)
  /-- The decoded pair of an event word (R130). -/
  | pair (pin : Half) (rising : Bool)
  /-- An 8-bit field (R44). -/
  | byte (b : Byte)
  /-- A 16-bit field (R44). -/
  | half (w : Half)
  deriving DecidableEq, Repr

/-- The state. First the block's own (the table of R10), then the environment's (R24), then the model's. -/
structure State where
  /-- The parameters of R3; no operation writes them (notes/assumptions/1.md). -/
  cfg : Params
  /-- `ps` (R12). -/
  ps : ParserState
  /-- `held` (R13). -/
  held : Bool
  /-- `cur` (R14). -/
  cur : Nat
  /-- `cnt` (R16). -/
  cnt : Half
  /-- The buffer space (R11, R40): `command`, `length` low byte first, `payload`, buffer after buffer. An address that is
  not listed has not been written since reset. -/
  mem : List Host.Cell
  /-- `free[h]` (R17). -/
  free : List Bool
  /-- `PQ` (R18, R19). -/
  pq : Queue Nat
  /-- `EQ` (R18, R19). -/
  evq : Queue Word
  /-- Ghost: `own[h]` (R22). -/
  own : List Owner
  /-- Ghost: `log` (R23), oldest first. -/
  log : List DropReason
  /-- Environment: the dispatcher (R161, R162, R168; notes/assumptions/16.md, 17.md). -/
  wdisp : DispPhase
  /-- Environment: the event worker (R170, R168). -/
  wevt : EvtPhase
  /-- Environment: the FrameWriter's lock (R172, R173); `none` when free. -/
  writer : Option Writer
  /-- Environment: the outbound byte stream, oldest first (R40, R172). -/
  tx : List Byte
  /-- Environment: the SPI adapter's PinRegistration: pin and mode (R179; notes/assumptions/19.md). -/
  spiPins : List (Half × Byte)
  /-- Environment: the GPIO adapter's PinRegistration: pin and mode (R179). -/
  gpioPins : List (Half × Byte)
  /-- Environment: the calls made into the adapters, oldest first (R177, R178). -/
  calls : List AdapterCall
  /-- Model, input: what the adapters will answer, next first (U5). Past its end the answers are free values
  (notes/assumptions/18.md). -/
  replies : List Reply
  /-- Model, input: the buffers POOL.ALLOC will hand out where they are free, next first: the OPEN parameter
  `alloc_choice` (D8). Past its end, and where the wanted one is not free, the lowest free index
  (notes/assumptions/10.md). -/
  allocChoice : List Nat
  /-- Model, input: the trace (R73), next first: the interleaving of the contexts' transactions (R144;
  notes/assumptions/4.md). -/
  trace : List Txn
  /-- Model: the result of the last operation at its port (notes/assumptions/27.md). -/
  out : PortOut
  /-- Model: how many RESETs there have been: the argument of the free values that R27 leaves (notes/assumptions/6.md). -/
  epoch : Nat
  /-- Model: how many payload bytes have been stored: an argument of the free value of R44 case a (notes/assumptions/9.md). -/
  stores : Nat
  deriving DecidableEq, Repr

/-- Why a run leaves the specified behaviour (R187): after a fault nothing is promised. -/
inductive Fault where
  /-- POOL.RELEASE of a buffer whose `free` bit is 1 (R82, R187). Safe: the document calls it undefined. -/
  | doubleRelease
  /-- POOL.RELEASE, BUF.READ or HANDLE with a handle that names no buffer (R47, R187). Also a parser store through such a
  `cur`, which no run reaches. Safe. -/
  | badHandle
  /-- POOL.RELEASE of a buffer the caller does not own (R82, R187). Safe. -/
  | foreignRelease
  /-- A worker's read of a buffer it does not own (R44, R187). Safe. -/
  | foreignAccess
  /-- An operation invoked by a context that R141 or R210 does not give it to, or re-entered (R195). Safe. -/
  | wrongContext
  /-- The model's: an access to `payload[off]` with `off` ≥ `MAX_PAYLOAD`, which R40 says does not exist; no run of
  well-formed operations reaches it (R43). Safe: the model stops (notes/assumptions/15.md). -/
  | noSuchOffset
  /-- The model's: a worker asked for a part of its loop (R161, R170) that is not the next one, such as the arm of another
  command than that of the packet it holds, which the environment's contract rules out. Safe: the model stops
  (notes/assumptions/13.md). -/
  | outOfLoop
  deriving DecidableEq, Repr

/-- Why the model has no step for what it was given. -/
inductive Refusal where
  /-- Raised by exec for an operation without a meaning yet. Safe: the model stops. -/
  | notModelled (mnemonic : String)
  /-- Raised by step for a transaction that is no operation of the block. Safe: no such transaction can be presented. -/
  | undecodable (e : DecodeError)
  deriving DecidableEq, Repr

/-- The block's registers after reset number `epoch` (R27), over the rest of `s`. What R27 leaves unspecified (`cur`,
the buffers, the queue slots) holds free values that depend on the reset number. -/
def State.afterReset (s : State) (epoch : Nat) : State :=
  { s with
    ps := .readCommand
    held := false
    cur := Config.freeCur epoch % 2 ^ s.cfg.handleW
    cnt := 0
    mem := []
    free := List.replicate s.cfg.nPackets true
    pq := { slot := (List.range s.cfg.pqCap).map fun i => Config.freePqSlot epoch i % 2 ^ s.cfg.handleW
            wr := 0, rd := 0 }
    evq := { slot := (List.range s.cfg.eqCap).map fun i => Config.freeEqSlot epoch i, wr := 0, rd := 0 }
    own := List.replicate s.cfg.nPackets .free
    log := []
    epoch := epoch }

/-- The machine at power-on with parameters `cfg`: the block right after its first RESET (R27, R215), both workers at the
head of their loops, the lock free, nothing sent, "adapters with no pin registered" (spec/95_test_vectors.md part I), no
input pending. -/
def State.boot (cfg : Params) : State :=
  State.afterReset
    { cfg := cfg, ps := .readCommand, held := false, cur := 0, cnt := 0, mem := [], free := []
      pq := { slot := [], wr := 0, rd := 0 }, evq := { slot := [], wr := 0, rd := 0 }, own := [], log := []
      wdisp := .idle, wevt := .idle, writer := none, tx := [], spiPins := [], gpioPins := [], calls := []
      replies := [], allocChoice := [], trace := [], out := .none, epoch := 0, stores := 0 }
    0

/-- The machine right after reset, with the default parameters of R3. -/
def State.reset : State := State.boot Params.default

end Sys2Proof.Machine
end

