-- ==== Sys2Proof/Machine/Memory.lean ====
section
/-! DEFINITION. The buffer space (R11, R40, R41) as a canonical list of written bytes, and the named accesses to it. -/

namespace Sys2Proof.Machine

/-- The canonical form: addresses strictly rising. An unlisted address reads as "not written since reset", which no
entry can equal. -/
abbrev Memory.wf (m : List Host.Cell) : Prop := (m.map Prod.fst).Pairwise (· < ·)

/-- The byte last written at `a` since reset, if any. -/
def Memory.lookup : List Host.Cell → Nat → Option Byte
  | [], _ => none
  | (k, v) :: m, a => if k = a then some v else Memory.lookup m a

/-- Store one byte, keeping the canonical form. -/
def Memory.store : List Host.Cell → Nat → Byte → List Host.Cell
  | [], a, v => [(a, v)]
  | (k, w) :: m, a, v =>
    if a < k then (a, v) :: (k, w) :: m
    else if a = k then (a, v) :: m
    else (k, w) :: Memory.store m a v

/-- The model's address of byte `off` of buffer `h`: R47 leaves it to the platform (DESIGN CHOICE:
notes/assumptions/2.md). Offset 0 is `command`, 1 and 2 are `length` low byte first, 3 + i is `payload[i]`. -/
def bufAddr (p : Params) (h : Nat) (off : Nat) : Nat := h * p.bufBytes + off

/-- The address of `payload[off]` of buffer `h`. -/
def payloadAddr (p : Params) (h : Nat) (off : Nat) : Nat := bufAddr p h (3 + off)

/-- Read one byte of the buffer space. A byte not written since reset is a free value (R27, D19). -/
def State.byteAt (s : State) (a : Nat) : Byte := (Memory.lookup s.mem a).getD (Config.freeByte s.epoch a)

/-- Write one byte of the buffer space. -/
def State.setByte (s : State) (a : Nat) (v : Byte) : State := { s with mem := Memory.store s.mem a v }

/-- `buf[h].command` (R11). -/
def State.command (s : State) (h : Nat) : Byte := s.byteAt (bufAddr s.cfg h 0)

/-- `buf[h].length` (R11). -/
def State.length (s : State) (h : Nat) : Half := s.byteAt (bufAddr s.cfg h 2) ++ s.byteAt (bufAddr s.cfg h 1)

/-- `buf[h].payload[off]` (R11). -/
def State.payload (s : State) (h : Nat) (off : Nat) : Byte := s.byteAt (payloadAddr s.cfg h off)

/-- `buf[h].command <- b` (R43). -/
def State.setCommand (s : State) (h : Nat) (b : Byte) : State := s.setByte (bufAddr s.cfg h 0) b

/-- `buf[h].length <- l`: the header field is written whole (R43). -/
def State.setLength (s : State) (h : Nat) (l : Half) : State :=
  (s.setByte (bufAddr s.cfg h 1) (l.extractLsb' 0 8)).setByte (bufAddr s.cfg h 2) (l.extractLsb' 8 8)

/-- `MemWrite((h, off), 1, b)`: the parser's only store into a payload array (R43). -/
def State.storePayload (s : State) (h : Nat) (off : Nat) (b : Byte) : State :=
  { s.setByte (payloadAddr s.cfg h off) b with stores := s.stores + 1 }

end Sys2Proof.Machine
end

