-- ==== Sys2Proof/Machine/Flags.lean ====
section
/-! DEFINITION. The derived conditions (R20): the block has no flags register; `Q.empty`, `Q.full`, `count(Q)`, "pool
exhausted" and `VALID_TAG` are recomputed from the state whenever read. -/

namespace Sys2Proof.Machine

/-- `count(Q) := (Q.wr − Q.rd) mod (2·CAP)` (R91). -/
def Queue.count {α : Type} (cap : Nat) (q : Queue α) : Nat := (q.wr + 2 * cap - q.rd) % (2 * cap)

/-- `Q.empty` (R91). -/
def Queue.isEmpty {α : Type} (cap : Nat) (q : Queue α) : Bool := decide (q.count cap = 0)

/-- `Q.full` (R91). -/
def Queue.isFull {α : Type} (cap : Nat) (q : Queue α) : Bool := decide (q.count cap = cap)

/-- `items(Q)`, head first (R91). -/
def Queue.items {α : Type} (cap : Nat) (q : Queue α) : List α :=
  (List.range (q.count cap)).filterMap fun i => q.slot[(q.rd + i) % cap]?

/-- `VALID_TAG(b)` (R64): a test on the value alone. -/
def validTag (p : Params) (b : Byte) : Bool := decide (p.tagMin ≤ b.toNat ∧ b.toNat ≤ p.tagMax)

/-- `free[h]` (R17). -/
def State.isFree (s : State) (h : Nat) : Bool := s.free.getD h false

/-- `own[h]` (R22). -/
def State.owner (s : State) (h : Nat) : Owner := s.own.getD h .free

/-- The set F of R81, in rising order. -/
def State.freeSet (s : State) : List Nat := (List.range s.cfg.nPackets).filter fun h => s.isFree h

/-- The pool's "exhausted" condition: all `free[h]` = 0 (R20, R83). -/
def State.exhausted (s : State) : Bool := s.freeSet.isEmpty

/-- The level `PQ.not_empty` shown at PQGET (R150). -/
def State.pqNotEmpty (s : State) : Bool := !(s.pq.isEmpty s.cfg.pqCap)

/-- The level `EQ.not_empty` shown at EQGET (R150). -/
def State.eqNotEmpty (s : State) : Bool := !(s.evq.isEmpty s.cfg.eqCap)

end Sys2Proof.Machine
end

