-- ==== Sys2Proof/Machine/Operands.lean ====
section
/-! DEFINITION. The operand forms: little-endian payload fields (R41, R65), the event word (R130), the bytes of a frame
(R60, R172).

The payload fields are read up to the packet's own `length`. Where that is more than `MAX_PAYLOAD`, which R35 excludes and only
a harness can bring about, the bytes at `MAX_PAYLOAD` and beyond are those of the addresses that follow in the buffer space
(DESIGN CHOICE: notes/assumptions/15.md). -/

namespace Sys2Proof.Machine

/-- `MemRead((h, off), n)` = Σ payload[off + k]·256^k (R41), as the `n` bytes' number. -/
def State.memRead (s : State) (h : Nat) (off : Nat) : Nat → Nat
  | 0 => 0
  | n + 1 => (s.payload h off).toNat + 256 * State.memRead s h (off + 1) n

/-- The 2-byte field at payload offset `off`: a pin identifier (R65). -/
def State.payloadHalf (s : State) (h : Nat) (off : Nat) : Half := BitVec.ofNat 16 (s.memRead h off 2)

/-- The 4-byte field at payload offset `off`: the SPI frequency (R65). -/
def State.payloadWord (s : State) (h : Nat) (off : Nat) : Word := BitVec.ofNat 32 (s.memRead h off 4)

/-- The `n` bytes `payload[off .. off + n − 1]` (R65). Past `MAX_PAYLOAD` − 1 they are the bytes of the addresses that follow
(DESIGN CHOICE: notes/assumptions/15.md). -/
def State.payloadBytes (s : State) (h : Nat) (off n : Nat) : List Byte :=
  (List.range n).map fun i => s.payload h (off + i)

/-- `sel_pin[i]`, i = 0 .. n−1, n = (`length` − 5) div 2, "truncating any trailing odd byte" (R65, R163).
Past `MAX_PAYLOAD` − 1 they are read from the addresses that follow (DESIGN CHOICE: notes/assumptions/15.md). -/
def State.selPins (s : State) (h : Nat) : List Half :=
  (List.range (((s.length h).toNat - 5) / 2)).map fun i => s.payloadHalf h (5 + 2 * i)

/-- `encode(pin, is_rising) := zext_32({is_rising, pin[15:0]})` (R130). -/
def encodeEvent (pin : Half) (rising : Bool) : Word := (BitVec.ofBool rising ++ pin).setWidth 32

/-- The pin bits `ev[15:0]` of an event word (R130). -/
def eventPin (ev : Word) : Half := ev.extractLsb' 0 16

/-- `is_rising` = `ev[16]` (R130). Bits 31..17 are not looked at (U14). -/
def eventRising (ev : Word) : Bool := ev.getLsbD 16

/-- `decode(ev)` (R130): the pin as a 16-bit signed number, and the direction. -/
def decodeEvent (ev : Word) : Int × Bool := ((eventPin ev).toInt, eventRising ev)

/-- The edge byte of an InterruptEvent: 0x01 rising, 0x02 falling (R67, R170). -/
def edgeByte (rising : Bool) : Byte := if rising then 0x01 else 0x02

/-- The InterruptEvent frame (R170, R171): pin low byte first, then the edge byte. -/
def eventFrame (pin : Half) (rising : Bool) : Frame :=
  { tag := 0x07, payload := [pin.extractLsb' 0 8, pin.extractLsb' 8 8, edgeByte rising] }

/-- The status byte: 0x01 ack, 0x02 nack (R66). -/
def statusByte (ok : Bool) : Byte := if ok then 0x01 else 0x02

/-- A status answer: `length` = 1 (R65). -/
def statusFrame (tag : Byte) (ok : Bool) : Frame := { tag := tag, payload := [statusByte ok] }

/-- The bytes `send(tag, payload)` writes: tag, n mod 256, n div 256, payload (R60, R172). -/
def Frame.bytes (f : Frame) : List Byte :=
  f.tag :: BitVec.ofNat 8 (f.payload.length % 256) :: BitVec.ofNat 8 (f.payload.length / 256) :: f.payload

end Sys2Proof.Machine
end

