-- ==== Sys2Proof/Machine/Ops.lean ====
section
/-! DEFINITION. The named operations every meaning is written over: outcomes, the context check, the recovered
conditions (the block's only "exceptions", R185, R194), the pool (R81, R82), the queues (R92, R93), RESET (R210). -/

namespace Sys2Proof.Machine

/-- The outcome of an operation. -/
abbrev Result := Host.Outcome State Fault Refusal

/-- Sequencing: "a sequence is executed top to bottom and is still one atomic step" (R8). -/
def andThen (r : Result) (k : State → Result) : Result :=
  match r with
  | .next s => k s
  | .fault f => .fault f
  | .refused e => .refused e

/-- The operation completes, handing back `o` at its port (R150). -/
def answer (o : PortOut) (s : State) : Result := .next { s with out := o }

/-- The operation completes with no result. -/
def silent (r : Result) : Result := andThen r (answer .none)

/-- R141: an operation invoked by any context but the one allowed is a fault, after the faults of its handle (D17). -/
def onlyIn (allowed c : Ctx) (r : Result) : Result := if c = allowed then r else .fault .wrongContext

/-- TAKING AN EXCEPTION. What a manual calls an exception is here a recovered condition: `drop <Reason>` "records one of
the recovered conditions", changes nothing else and signals nothing (R8, R185, R186). There is no saved state, mode or
vector (R194), and nothing to return to or restore (R195). -/
def State.drop (s : State) (r : DropReason) : State := { s with log := s.log ++ [r] }

/-- The PARSER RESET that ends every frame and every framing error (R211 (2)): the parser holds nothing and expects a
tag. The nearest thing to a return from an exception. -/
def State.parserReset (s : State) : State := { s with held := false, cnt := 0, ps := .readCommand }

/-- `choose h in F` of R81, by the OPEN parameter `alloc_choice` (D8): the wanted buffer if it is free, else the
lowest free index. -/
def State.chooseFree (s : State) : Option Nat :=
  match s.freeSet with
  | [] => none
  | lowest :: _ => some ((s.allocChoice.head?.filter fun h => s.freeSet.contains h).getD lowest)

/-- `free[h] <- 0; own[h] <- PARSER` (R81), and the choice is used up. -/
def State.takeBuffer (s : State) (h : Nat) : State :=
  { s with free := s.free.set h false, own := s.own.set h .parser, allocChoice := s.allocChoice.tail }

/-- `POOL.ALLOC()` (R81). On `none` there is no state change. -/
def State.allocate (s : State) : Option Nat × State :=
  match s.chooseFree with
  | none => (none, s)
  | some h => (some h, s.takeBuffer h)

/-- `free[h] <- 1; own[h] <- FREE` (R82). -/
def State.giveBack (s : State) (h : Nat) : State :=
  { s with free := s.free.set h true, own := s.own.set h .free }

/-- `POOL.RELEASE(h)` by caller `c` (R82), with the checks in the order of R188. -/
def release (c : Owner) (h : Nat) (s : State) : Result :=
  if s.cfg.nPackets ≤ h then .fault .badHandle
  else if s.isFree h then .fault .doubleRelease
  else if s.owner h ≠ c then .fault .foreignRelease
  else .next (s.giveBack h)

/-- `Q.TRY_PUT(x)` on the queue itself (R92): fails, with no change at all, if and only if the queue is full. -/
def Queue.tryPut {α : Type} (cap : Nat) (x : α) (q : Queue α) : Bool × Queue α :=
  if q.isFull cap then (false, q)
  else (true, { q with slot := q.slot.set (q.wr % cap) x, wr := (q.wr + 1) % (2 * cap) })

/-- `Q.GET()` on the queue itself (R93): not enabled while it is empty. The slot is not cleared. -/
def Queue.get {α : Type} (cap : Nat) (q : Queue α) : Option (α × Queue α) :=
  if q.isEmpty cap then none
  else (q.slot[q.rd % cap]?).map fun x => (x, { q with rd := (q.rd + 1) % (2 * cap) })

/-- `PQ.TRY_PUT(x)` (R92), with the ghost `own[x] <- QUEUED` on success. -/
def State.pqPut (s : State) (x : Nat) : Bool × State :=
  match s.pq.tryPut s.cfg.pqCap x with
  | (true, q) => (true, { s with pq := q, own := s.own.set x .queued })
  | (false, _) => (false, s)

/-- `EQ.TRY_PUT(ev)` (R92). -/
def State.eqPut (s : State) (ev : Word) : Bool × State :=
  match s.evq.tryPut s.cfg.eqCap ev with
  | (true, q) => (true, { s with evq := q })
  | (false, _) => (false, s)

/-- `PQ.GET()` (R93), with the ghost `own[x] <- WORKER`; the dispatcher keeps the handle (R162), whatever its record held
(DESIGN CHOICE where that is outside its loop, R161: notes/assumptions/22.md). `none` where the caller is held (R97). -/
def State.pqTake (s : State) : Option (Nat × State) :=
  (s.pq.get s.cfg.pqCap).map fun (x, q) =>
    (x, { s with pq := q, own := s.own.set x .worker, wdisp := .holding x })

/-- `EQ.GET()` (R93, R135, R151); the event worker keeps the word (R170). The new word overwrites the worker's record even
while it holds a word not yet sent or is in the middle of `send`: that earlier word or frame is forgotten, and the lock stays as
it is. R170 has `get` at the head of its loop only, and the spec is silent on the rest (DESIGN CHOICE:
notes/assumptions/22.md). `none` where the caller is held (R97). -/
def State.eqTake (s : State) : Option (Word × State) :=
  (s.evq.get s.cfg.eqCap).map fun (ev, q) => (ev, { s with evq := q, wevt := .holding ev })

/-- A worker's right to read buffer `h` (R44, R188): the handle names a buffer, and the worker owns it. -/
def readable (h : Nat) (s : State) (r : Result) : Result :=
  if s.cfg.nPackets ≤ h then .fault .badHandle
  else if s.owner h ≠ .worker then .fault .foreignAccess
  else r

/-- The dispatcher's own record of the packet it is processing (R162) after it releases `h`: the processing step is over,
unless an answer is still in its scratch buffer to be sent (DESIGN CHOICE: notes/assumptions/22.md). -/
def DispPhase.forget (h : Nat) : DispPhase → DispPhase
  | .idle => .idle
  | .holding h' => if h' = h then .idle else .holding h'
  | .answering h' f => .answering h' f
  | .answered h' => if h' = h then .idle else .answered h'

/-- `RESET` (R210): every register to its reset value of R27, in one atomic step. The environment is not touched
(R212). -/
def State.blockReset (s : State) : State := s.afterReset (s.epoch + 1)

end Sys2Proof.Machine
end

