-- ==== Sys2Proof/Machine/Adapters.lean ====
section
/-! DEFINITION. The adapters as oracles (R177 to R179, U5) and the FrameWriter (R172 to R174). Environment: scope file
section 4.2. -/

namespace Sys2Proof.Machine

/-- The adapter's answer to the next call: the next input, or free values where there is none (U5, R177). -/
def State.nextReply (s : State) : Reply :=
  s.replies.headD { ok := Config.adapterOk s.calls.length, rx := [] }

/-- One call into an adapter: it is recorded, and its answer used up. -/
def State.called (s : State) (c : AdapterCall) : State :=
  { s with calls := s.calls ++ [c], replies := s.replies.tail }

/-- Add a PinRegistration; "duplicate registration for the same pin is rejected without side effects" (R179). -/
def addPin (pins : List (Half × Byte)) (pin : Half) (mode : Byte) : List (Half × Byte) :=
  if pins.any (fun r => r.1 = pin) then pins else pins ++ [(pin, mode)]

/-- `spi.setup(freq, mode, pins)` (R177): the result is the adapter's; on success the pins are registered (DEDUCED from R179:
notes/assumptions/19.md). -/
def State.spiSetup (s : State) (freq : Word) (mode : Byte) (pins : List Half) : Bool × State :=
  let ok := s.nextReply.ok
  let t := s.called (.spiSetup freq mode pins)
  (ok, if ok then { t with spiPins := pins.foldl (fun r pin => addPin r pin mode) t.spiPins } else t)

/-- `spi.transfer(pin, tx, txLen, rx)` (R164, R177): the receive buffer of `txLen` bytes. The adapter's bytes where it
wrote them, free values elsewhere; its return value is not used. -/
def State.spiTransfer (s : State) (pin : Half) (bytes : List Byte) : List Byte × State :=
  ((List.range bytes.length).map fun i => (s.nextReply.rx[i]?).getD (Config.scratchByte s.calls.length i),
    s.called (.spiTransfer pin bytes))

/-- `gpio.register(pin, mode)` (R178): false, without side effects, for a pin already registered. -/
def State.gpioRegister (s : State) (pin : Half) (mode : Byte) : Bool × State :=
  let ok := s.nextReply.ok && !(s.gpioPins.any fun r => r.1 = pin)
  let t := s.called (.gpioRegister pin mode)
  (ok, if ok then { t with gpioPins := addPin t.gpioPins pin mode } else t)

/-- `spi.reset(); gpio.reset()` (R166): unregister-all, idempotent, no result. -/
def State.adaptersReset (s : State) : State :=
  { s with calls := s.calls ++ [.spiReset, .gpioReset], spiPins := [], gpioPins := [] }

/-- Whether worker `c` would wait for the lock: another holds it (R172, R173). -/
def State.lockBusy (s : State) (c : Ctx) : Bool :=
  match s.writer with
  | none => false
  | some w => decide (w.holder ≠ c)

/-- One atomic step of `send(f)` by worker `c` (R172): acquire the lock; then one byte a step to the transport; then
release the lock and go on as `done` says. While another worker holds the lock the caller is held. -/
def sendStep (c : Ctx) (f : Frame) (done : State → State) (s : State) : Result :=
  match s.writer with
  | none => answer .none { s with writer := some { holder := c, rest := f.bytes } }
  | some w =>
    if w.holder ≠ c then answer .held s
    else
      match w.rest with
      | [] => answer .none (done { s with writer := none })
      | b :: rest => answer .none { s with tx := s.tx ++ [b], writer := some { w with rest := rest } }

end Sys2Proof.Machine
end

