-- ==== Sys2Proof/Machine/Parser.lean ====
section
/-! DEFINITION. FrameParser: RX_BYTE in each of its four states, and the two shared endings (spec/42_frame_parser.md). -/

namespace Sys2Proof.Machine

/-- EMIT (R109): put the packet; on a full queue drop the frame and release the buffer; in both cases the parser then
holds nothing. -/
def emitPacket (s : State) : Result :=
  match s.pqPut s.cur with
  | (true, s') => .next s'.parserReset
  | (false, s') =>
    andThen (release .parser s'.cur (s'.drop .queueFullFrame)) fun t => .next t.parserReset

/-- ABORT (R113). -/
def abortFrame (s : State) : Result :=
  andThen (release .parser s.cur s) fun t => .next t.parserReset

/-- The parser touches `buf[cur]`. `cur` names a buffer in every reachable state (R30); where it names none the model
stops (notes/assumptions/7.md). -/
def withCur (s : State) (r : Result) : Result :=
  if s.cur < s.cfg.nPackets then r else .fault .badHandle

/-- The end of R108: `buf[cur].command <- b; ps <- ReadLenLow`. -/
def storeCommand (b : Byte) (s : State) : Result :=
  withCur s (.next { s.setCommand s.cur b with ps := .readLenLow })

/-- State ReadCommand: R106, R107, R108, in the order of R193. The guard `held` = 1 is kept (R121). -/
def rxReadCommand (b : Byte) (s : State) : Result :=
  if !validTag s.cfg b then .next (s.drop .invalidTag)
  else if s.held then storeCommand b s
  else
    match s.allocate with
    | (none, s') => .next (s'.drop .noBuffer)
    | (some h, s') => storeCommand b { s' with cur := h, held := true }

/-- State ReadLenLow (R110): `buf[cur].length <- zext_16(b)`. -/
def rxReadLenLow (b : Byte) (s : State) : Result :=
  withCur s (.next { s.setLength s.cur (b.setWidth 16) with ps := .readLenHigh })

/-- State ReadLenHigh (R111): the oversize test first, then zero. -/
def rxReadLenHigh (b : Byte) (s : State) : Result :=
  let l : Half := b ++ (s.length s.cur).extractLsb' 0 8
  let s' := s.setLength s.cur l
  withCur s
    (if s.cfg.maxPayload < l.toNat then abortFrame (s'.drop .oversizeLength)
    else if l = 0 then emitPacket s'
    else .next { s' with cnt := 0, ps := .readData })

/-- State ReadData (R112). The store is in bounds in every reachable state (R43). -/
def rxReadData (b : Byte) (s : State) : Result :=
  let s' := { s.storePayload s.cur s.cnt.toNat b with cnt := s.cnt + 1 }
  withCur s
    (if s.cfg.maxPayload ≤ s.cnt.toNat then .fault .noSuchOffset
    else if s'.cnt = s'.length s'.cur then emitPacket s'
    else .next s')

/-- RX_BYTE(b) (R105): one case per value of `ps`. -/
def receive (b : Byte) (s : State) : Result :=
  match s.ps with
  | .readCommand => rxReadCommand b s
  | .readLenLow => rxReadLenLow b s
  | .readLenHigh => rxReadLenHigh b s
  | .readData => rxReadData b s

/-- A row of the table whose bits mean what it says only in parser state `ps` (`valid_when`, R75). In another state the
same byte is another row: decoding is by position (R68), so the byte has that position's meaning (DEDUCED:
notes/assumptions/14.md). -/
def atPosition (ps : ParserState) (row : Byte → State → Result) (b : Byte) (s : State) : Result :=
  if s.ps = ps then row b s else receive b s

end Sys2Proof.Machine
end

