-- ==== Sys2Proof/Machine/Workers.lean ====
section
/-! DEFINITION. The two worker loops (R161, R170): the arms of the dispatcher's `case cmd`, and sending an answer.
Environment: scope file section 4.2. -/

namespace Sys2Proof.Machine

/-- The arm of `case cmd` for command `tag` (R161): the dispatcher holds `h`, has not executed its command, and reads
`buf[h]` under the discipline of R44; the case takes this arm where `buf[h].command` = `tag`. Any other arm, and an arm
while no packet waits to be executed, is out of the loop's order (DESIGN CHOICE: notes/assumptions/13.md). -/
def dispatching (tag : Byte) (s : State) (arm : Nat → Result) : Result :=
  match s.wdisp with
  | .holding h => readable h s (if s.command h = tag then arm h else .fault .outOfLoop)
  | .idle | .answering _ _ | .answered _ => .fault .outOfLoop

/-- The answer is composed in the dispatcher's scratch buffer (R168); `send` follows. -/
def State.compose (s : State) (h : Nat) (f : Frame) : State := { s with wdisp := .answering h f }

/-- SpiSetup, tag 0x01 (R163). -/
def dispatchSpiSetup (tag : Byte) (s : State) : Result :=
  dispatching tag s fun h =>
    if (s.length h).toNat < 7 then answer .none (s.compose h (statusFrame 0x02 false))
    else
      match s.spiSetup (s.payloadWord h 0) (s.payload h 4) (s.selPins h) with
      | (ok, t) => answer .none (t.compose h (statusFrame 0x02 ok))

/-- SpiTransfer, tag 0x03 (R164). The answer's length is the tx length, whatever the adapter reports. -/
def dispatchSpiTransfer (tag : Byte) (s : State) : Result :=
  dispatching tag s fun h =>
    if (s.length h).toNat < 2 then answer .none (s.compose h { tag := 0x04, payload := [] })
    else
      match s.spiTransfer (s.payloadHalf h 0) (s.payloadBytes h 2 ((s.length h).toNat - 2)) with
      | (rx, t) => answer .none (t.compose h { tag := 0x04, payload := rx.take s.cfg.maxPayload })

/-- InterruptRegister, tag 0x05 (R165). -/
def dispatchInterruptRegister (tag : Byte) (s : State) : Result :=
  dispatching tag s fun h =>
    if s.length h ≠ 3 then answer .none (s.compose h (statusFrame 0x06 false))
    else if s.payload h 2 < 1 ∨ 3 < s.payload h 2 then answer .none (s.compose h (statusFrame 0x06 false))
    else
      match s.gpioRegister (s.payloadHalf h 0) (s.payload h 2) with
      | (ok, t) => answer .none (t.compose h (statusFrame 0x06 ok))

/-- Reset, tag 0x08 (R166): the adapters only; `length` is not examined. -/
def dispatchWireReset (tag : Byte) (s : State) : Result :=
  dispatching tag s fun h => answer .none (s.adaptersReset.compose h (statusFrame 0x09 true))

/-- Any other tag (R167): no adapter call, no answer. -/
def dispatchUnknown (tag : Byte) (s : State) : Result :=
  dispatching tag s fun h => answer .none { s with wdisp := .answered h }

/-- A device→host tag in the dispatcher's hands: the tag of the answer it is sending (R163 to R166, R172), or of a packet
received from the host, which has no handler (R72, R167). -/
def dispatchOrSend (tag : Byte) (s : State) : Result :=
  match s.wdisp with
  | .answering h f =>
    if f.tag = tag then sendStep .wdisp f (fun t => { t with wdisp := .answered h }) s else .fault .outOfLoop
  | .idle | .holding _ | .answered _ => dispatchUnknown tag s

/-- The event worker sends the InterruptEvent frame it has composed (R170, R171). -/
def forwardEvent (s : State) : Result :=
  match s.wevt with
  | .sending f => sendStep .wevt f (fun t => { t with wevt := .idle }) s
  | .idle | .holding _ => .fault .outOfLoop

/-- The event worker decodes the pair; if it is the word it holds, it composes the frame (R170). -/
def decodePair (pin : Half) (rising : Bool) (s : State) : State :=
  match s.wevt with
  | .holding ev =>
    if eventPin ev = pin ∧ eventRising ev = rising then { s with wevt := .sending (eventFrame pin rising) } else s
  | .idle | .sending _ => s

/-- A byte of the tag table, by who meets it: received by `IRX` in `ReadCommand` (R106 to R108), or met by the
dispatcher in its `case cmd` (R161). -/
def tagByte (b : Byte) (arm : Byte → State → Result) (c : Ctx) (s : State) : Result :=
  match c with
  | .irx => silent (atPosition .readCommand rxReadCommand b s)
  | .wdisp => arm b s
  | .igpio | .wevt | .platform | .reentry => .fault .wrongContext

end Sys2Proof.Machine
end

