-- ==== Sys2Proof/Machine/InvalidTags.lean ====
section
/-! DEFINITION. The invalid-tag rows (R69): the parser discards the byte (R106); the dispatcher, which R64 keeps them
from, would take its unknown-tag arm (R167). -/

namespace Sys2Proof.Machine

/-- 0x00. -/
def execInvalidTag00 (c : Ctx) (s : State) : Result := tagByte 0x00 dispatchUnknown c s

/-- 0x0A, 0x0B. -/
def execInvalidTag0A (c : Ctx) (x : BitVec 1) (s : State) : Result := tagByte (0b0000101#7 ++ x) dispatchUnknown c s

/-- 0x0C to 0x0F. -/
def execInvalidTag0C (c : Ctx) (x : BitVec 2) (s : State) : Result := tagByte (0b000011#6 ++ x) dispatchUnknown c s

/-- 0x10 to 0x1F. -/
def execInvalidTag10 (c : Ctx) (x : BitVec 4) (s : State) : Result := tagByte (0b0001#4 ++ x) dispatchUnknown c s

/-- 0x20 to 0x3F. -/
def execInvalidTag20 (c : Ctx) (x : BitVec 5) (s : State) : Result := tagByte (0b001#3 ++ x) dispatchUnknown c s

/-- 0x40 to 0x7F. -/
def execInvalidTag40 (c : Ctx) (x : BitVec 6) (s : State) : Result := tagByte (0b01#2 ++ x) dispatchUnknown c s

/-- 0x80 to 0xFF. -/
def execInvalidTag80 (c : Ctx) (x : BitVec 7) (s : State) : Result := tagByte (0b1#1 ++ x) dispatchUnknown c s

end Sys2Proof.Machine
end

