-- ==== Sys2Proof/Machine/Ports.lean ====
section
/-! DEFINITION. The port-op rows (R75, R150). Each checks its context by R141; an operation on a handle makes the checks of
the handle first, in the order of D17 (notes/assumptions/31.md). -/

namespace Sys2Proof.Machine

/-- RX_BYTE(b) (R105). -/
def execRxByte (c : Ctx) (b : Byte) (s : State) : Result := onlyIn .irx c (silent (receive b s))

/-- EDGE(pin, is_rising) (R131): touches `EQ` and nothing else of the block. -/
def execEdge (c : Ctx) (pin : Half) (rising : Bool) (s : State) : Result :=
  onlyIn .igpio c
    (match s.eqPut (encodeEvent pin rising) with
    | (true, t) => answer .none t
    | (false, t) => answer .none (t.drop .queueFullEvent))

/-- POOL.ALLOC() (R81) by itself: the primitive of RX_BYTE (R141). -/
def execPoolAlloc (c : Ctx) (s : State) : Result :=
  onlyIn .irx c
    (match s.allocate with
    | (some h, t) => answer (.handle h) t
    | (none, t) => answer .noHandle t)

/-- POOL.RELEASE(h) (R82): caller PARSER for `IRX`, caller WORKER at the REL port, whoever presents it there. The faults in
the order of D17: those of R188, then WrongContext (DEDUCED: notes/assumptions/31.md). -/
def execPoolRelease (c : Ctx) (h : Nat) (s : State) : Result :=
  match c with
  | .irx => silent (release .parser h s)
  | .wdisp => andThen (release .worker h s) fun t => answer .none { t with wdisp := t.wdisp.forget h }
  | .igpio | .wevt | .platform | .reentry => andThen (release .worker h s) fun _ => .fault .wrongContext

/-- PQ.TRY_PUT(x) (R92) by itself: the primitive of EMIT. -/
def execPqTryPut (c : Ctx) (x : Nat) (s : State) : Result :=
  onlyIn .irx c (match s.pqPut x with | (ok, t) => answer (.bool ok) t)

/-- PQ.GET() (R93). On an empty queue the caller is held and nothing changes (R97). -/
def execPqGet (c : Ctx) (s : State) : Result :=
  onlyIn .wdisp c
    (match s.pqTake with
    | some (x, t) => answer (.handle x) t
    | none => answer .held s)

/-- EQ.TRY_PUT(ev) (R92) by itself: the primitive of EDGE. -/
def execEqTryPut (c : Ctx) (x : Word) (s : State) : Result :=
  onlyIn .igpio c (match s.eqPut x with | (ok, t) => answer (.bool ok) t)

/-- EQ.GET() (R93). On an empty queue the caller is held and nothing changes (R97). -/
def execEqGet (c : Ctx) (s : State) : Result :=
  onlyIn .wevt c
    (match s.eqTake with
    | some (ev, t) => answer (.event ev) t
    | none => answer .held s)

/-- What BUF.READ hands back (R44): the field; beyond `length` any value. -/
def fieldRead (s : State) (h : Nat) : BufField → Result
  | .command => answer (.byte (s.command h)) s
  | .length => answer (.half (s.length h)) s
  | .payload off =>
    if s.cfg.maxPayload ≤ off.toNat then .fault .noSuchOffset
    else if off.toNat < (s.length h).toNat then answer (.byte (s.payload h off.toNat)) s
    else answer (.byte (Config.staleByte s.epoch s.stores (payloadAddr s.cfg h off.toNat))) s

/-- BUF.READ(h, field) (R44). The faults in the order of D17: those of R188, then WrongContext (DEDUCED:
notes/assumptions/31.md). -/
def execBufRead (c : Ctx) (h : Nat) (f : BufField) (s : State) : Result :=
  readable h s (onlyIn .wdisp c (fieldRead s h f))

/-- RESET (R210): by the platform only. -/
def execBlockReset (c : Ctx) (s : State) : Result := onlyIn .platform c (answer .none s.blockReset)

/-- EMIT (R109) by itself. -/
def execEmit (c : Ctx) (s : State) : Result := onlyIn .irx c (silent (emitPacket s))

/-- ABORT (R113) by itself. -/
def execAbort (c : Ctx) (s : State) : Result := onlyIn .irx c (silent (abortFrame s))

end Sys2Proof.Machine
end

