-- ==== Sys2Proof/Machine/RxStates.lean ====
section
/-! DEFINITION. The rx-state rows (R68): a byte received by `IRX` while the parser is past the tag; every value is taken. -/

namespace Sys2Proof.Machine

/-- RX_BYTE.ReadLenLow (R110). -/
def execRxReadLenLow (b : Byte) (s : State) : Result := silent (atPosition .readLenLow rxReadLenLow b s)

/-- RX_BYTE.ReadLenHigh (R111). -/
def execRxReadLenHigh (b : Byte) (s : State) : Result := silent (atPosition .readLenHigh rxReadLenHigh b s)

/-- RX_BYTE.ReadData (R112). -/
def execRxReadData (b : Byte) (s : State) : Result := silent (atPosition .readData rxReadData b s)

end Sys2Proof.Machine
end

