-- ==== Sys2Proof/Machine/Tags.lean ====
section
/-! DEFINITION. The frame-tag rows (R63): what each tag means to the parser that receives it (R115) and to the worker
that dispatches or sends it. -/

namespace Sys2Proof.Machine

/-- SpiSetup 0x01 (R108; R163). -/
def execSpiSetup (c : Ctx) (s : State) : Result := tagByte 0x01 dispatchSpiSetup c s

/-- SpiSetupAnswer 0x02 (R108; R163 sent, R167 received). -/
def execSpiSetupAnswer (c : Ctx) (s : State) : Result := tagByte 0x02 dispatchOrSend c s

/-- SpiTransfer 0x03 (R108; R164). -/
def execSpiTransfer (c : Ctx) (s : State) : Result := tagByte 0x03 dispatchSpiTransfer c s

/-- SpiTransferAnswer 0x04 (R108; R164 sent, R167 received). -/
def execSpiTransferAnswer (c : Ctx) (s : State) : Result := tagByte 0x04 dispatchOrSend c s

/-- InterruptRegister 0x05 (R108; R165). -/
def execInterruptRegister (c : Ctx) (s : State) : Result := tagByte 0x05 dispatchInterruptRegister c s

/-- InterruptRegisterAnswer 0x06 (R108; R165 sent, R167 received). -/
def execInterruptRegisterAnswer (c : Ctx) (s : State) : Result := tagByte 0x06 dispatchOrSend c s

/-- InterruptEvent 0x07 (R108; R170, R171 sent by the event worker, R167 received). -/
def execInterruptEvent (c : Ctx) (s : State) : Result :=
  match c with
  | .wevt => forwardEvent s
  | .irx | .igpio | .wdisp | .platform | .reentry => tagByte 0x07 dispatchUnknown c s

/-- Reset 0x08 (R108; R166). Not the block's RESET (R211). -/
def execWireReset (c : Ctx) (s : State) : Result := tagByte 0x08 dispatchWireReset c s

/-- ResetAnswer 0x09 (R108; R166 sent, R167 received). -/
def execResetAnswer (c : Ctx) (s : State) : Result := tagByte 0x09 dispatchOrSend c s

end Sys2Proof.Machine
end

