-- ==== Sys2Proof/Machine/Words.lean ====
section
/-! DEFINITION. The internal-word rows (R76, R77), as operations by themselves (DEDUCED: notes/assumptions/23.md). -/

namespace Sys2Proof.Machine

/-- HANDLE (R76): a handle names a buffer, or faults (R47); it is presented by a context that handles them (R19, R141). The
faults in the order of D17. -/
def execHandle (c : Ctx) (h : Nat) (s : State) : Result :=
  if s.cfg.nPackets ≤ h then .fault .badHandle
  else
    match c with
    | .irx | .wdisp => answer (.handle h) s
    | .igpio | .wevt | .platform | .reentry => .fault .wrongContext

/-- EVENT_WORD (R77, R130): the producer encodes the pair, the consumer decodes the word (R170). -/
def execEventWord (c : Ctx) (rising : Bool) (pin : Half) (s : State) : Result :=
  match c with
  | .igpio => answer (.event (encodeEvent pin rising)) s
  | .wevt => answer (.pair pin rising) (decodePair pin rising s)
  | .irx | .wdisp | .platform | .reentry => .fault .wrongContext

end Sys2Proof.Machine
end

