-- ==== Sys2Proof/Machine/Dispatch.lean ====
section
/-! DEFINITION. exec: one arm per operation. -/

namespace Sys2Proof.Machine

def exec (i : Instr) (s : State) : Host.Outcome State Fault Refusal :=
  match i with
  -- frame-tag rows
  | .spiSetup c => Sys2Proof.Machine.execSpiSetup c s
  | .spiSetupAnswer c => Sys2Proof.Machine.execSpiSetupAnswer c s
  | .spiTransfer c => Sys2Proof.Machine.execSpiTransfer c s
  | .spiTransferAnswer c => Sys2Proof.Machine.execSpiTransferAnswer c s
  | .interruptRegister c => Sys2Proof.Machine.execInterruptRegister c s
  | .interruptRegisterAnswer c => Sys2Proof.Machine.execInterruptRegisterAnswer c s
  | .interruptEvent c => Sys2Proof.Machine.execInterruptEvent c s
  | .wireReset c => Sys2Proof.Machine.execWireReset c s
  | .resetAnswer c => Sys2Proof.Machine.execResetAnswer c s
  -- invalid-tag rows
  | .invalidTag00 c => Sys2Proof.Machine.execInvalidTag00 c s
  | .invalidTag0A c x => Sys2Proof.Machine.execInvalidTag0A c x s
  | .invalidTag0C c x => Sys2Proof.Machine.execInvalidTag0C c x s
  | .invalidTag10 c x => Sys2Proof.Machine.execInvalidTag10 c x s
  | .invalidTag20 c x => Sys2Proof.Machine.execInvalidTag20 c x s
  | .invalidTag40 c x => Sys2Proof.Machine.execInvalidTag40 c x s
  | .invalidTag80 c x => Sys2Proof.Machine.execInvalidTag80 c x s
  -- rx-state rows
  | .rxReadLenLow b => Sys2Proof.Machine.execRxReadLenLow b s
  | .rxReadLenHigh b => Sys2Proof.Machine.execRxReadLenHigh b s
  | .rxReadData b => Sys2Proof.Machine.execRxReadData b s
  -- port-op rows
  | .rxByte c b => Sys2Proof.Machine.execRxByte c b s
  | .edge c pin rising => Sys2Proof.Machine.execEdge c pin rising s
  | .poolAlloc c => Sys2Proof.Machine.execPoolAlloc c s
  | .poolRelease c h => Sys2Proof.Machine.execPoolRelease c h s
  | .pqTryPut c x => Sys2Proof.Machine.execPqTryPut c x s
  | .pqGet c => Sys2Proof.Machine.execPqGet c s
  | .eqTryPut c x => Sys2Proof.Machine.execEqTryPut c x s
  | .eqGet c => Sys2Proof.Machine.execEqGet c s
  | .bufRead c h f => Sys2Proof.Machine.execBufRead c h f s
  | .blockReset c => Sys2Proof.Machine.execBlockReset c s
  | .emit c => Sys2Proof.Machine.execEmit c s
  | .abort c => Sys2Proof.Machine.execAbort c s
  -- internal-word rows
  | .handle c h => Sys2Proof.Machine.execHandle c h s
  | .eventWord c rising pin => Sys2Proof.Machine.execEventWord c rising pin s

end Sys2Proof.Machine
end

