-- ==== Sys2Proof/WellFormed.lean ====
section
/-! DEFINITION. Which operations can be presented at a port: the operands fit the port's operand widths (R150). -/

namespace Sys2Proof

/-- A handle operand fits `HANDLE_W` bits (R76). The reserved values `N_PACKETS` .. 2^`HANDLE_W` − 1 do: they can be
presented, and fault (R47). -/
def handleFits (p : Params) (h : Nat) : Bool := decide (h < 2 ^ p.handleW)

/-- A payload offset lies in 0 .. `MAX_PAYLOAD` − 1 (R40). -/
def fieldFits (p : Params) : BufField → Bool
  | .command => true
  | .length => true
  | .payload off => decide (off.toNat < p.maxPayload)

/-- The operation's operands fit its port. Operands whose type is exactly the port's width need no check. -/
def wellFormed (p : Params) : Instr → Bool
  | .spiSetup _ => true
  | .spiSetupAnswer _ => true
  | .spiTransfer _ => true
  | .spiTransferAnswer _ => true
  | .interruptRegister _ => true
  | .interruptRegisterAnswer _ => true
  | .interruptEvent _ => true
  | .wireReset _ => true
  | .resetAnswer _ => true
  | .invalidTag00 _ => true
  | .invalidTag0A _ _ => true
  | .invalidTag0C _ _ => true
  | .invalidTag10 _ _ => true
  | .invalidTag20 _ _ => true
  | .invalidTag40 _ _ => true
  | .invalidTag80 _ _ => true
  | .rxReadLenLow _ => true
  | .rxReadLenHigh _ => true
  | .rxReadData _ => true
  | .rxByte _ _ => true
  | .edge _ _ _ => true
  | .poolAlloc _ => true
  | .poolRelease _ h => handleFits p h
  | .pqTryPut _ x => handleFits p x
  | .pqGet _ => true
  | .eqTryPut _ _ => true
  | .eqGet _ => true
  | .bufRead _ h f => handleFits p h && fieldFits p f
  | .blockReset _ => true
  | .emit _ => true
  | .abort _ => true
  | .handle _ h => handleFits p h
  | .eventWord _ _ _ => true

end Sys2Proof
end

