-- ==== Sys2Proof/Decode.lean ====
section
/-! DEFINITION. The decoder, total on every transaction, which rejects by name; after it the encoder, written from
the same tables (R63, R69, R75 to R77, R131, R150). -/

namespace Sys2Proof

/-- The tag table R63 and the invalid tag space R69, row by row as mask and match. Each byte is in exactly one row; the
last row of R69 (0x80 / 0x80) takes what is left. `c` is the context that meets the byte. -/
def decodeTag (c : Ctx) (b : Byte) : Instr :=
  if b = 0x01#8 then .spiSetup c
  else if b = 0x02#8 then .spiSetupAnswer c
  else if b = 0x03#8 then .spiTransfer c
  else if b = 0x04#8 then .spiTransferAnswer c
  else if b = 0x05#8 then .interruptRegister c
  else if b = 0x06#8 then .interruptRegisterAnswer c
  else if b = 0x07#8 then .interruptEvent c
  else if b = 0x08#8 then .wireReset c
  else if b = 0x09#8 then .resetAnswer c
  else if b = 0x00#8 then .invalidTag00 c
  else if b &&& 0xFE#8 = 0x0A#8 then .invalidTag0A c (b.extractLsb' 0 1)
  else if b &&& 0xFC#8 = 0x0C#8 then .invalidTag0C c (b.extractLsb' 0 2)
  else if b &&& 0xF0#8 = 0x10#8 then .invalidTag10 c (b.extractLsb' 0 4)
  else if b &&& 0xE0#8 = 0x20#8 then .invalidTag20 c (b.extractLsb' 0 5)
  else if b &&& 0xC0#8 = 0x40#8 then .invalidTag40 c (b.extractLsb' 0 6)
  else .invalidTag80 c (b.extractLsb' 0 7)

/-- Decoding of a received byte by position (R68): "the same byte value means different things according to `ps`". -/
def decodeByte (ps : ParserState) (b : Byte) : Instr :=
  match ps with
  | .readCommand => decodeTag .irx b
  | .readLenLow => .rxReadLenLow b
  | .readLenHigh => .rxReadLenHigh b
  | .readData => .rxReadData b

/-- A transaction whose port takes no operand bits. -/
def noOperand (data : Nat) (i : Instr) : Except DecodeError Instr :=
  if data = 0 then .ok i else .error .operandBits

/-- A transaction whose operand is one byte. -/
def byteOperand (data : Nat) (k : Byte → Instr) : Except DecodeError Instr :=
  if data < 2 ^ 8 then .ok (k (BitVec.ofNat 8 data)) else .error .operandBits

/-- A transaction whose operand is a handle of `HANDLE_W` bits (R76). -/
def handleOperand (p : Params) (data : Nat) (k : Nat → Instr) : Except DecodeError Instr :=
  if handleFits p data then .ok (k data) else .error .operandBits

/-- The operands of BUF.READ (R44, R150): field selector in bits 1..0 (0 command, 1 length, 2 payload), offset in
bits 17..2, handle above. The packing is the model's (DESIGN CHOICE: notes/assumptions/3.md). -/
def decodeBufRead (p : Params) (c : Ctx) (data : Nat) : Except DecodeError Instr :=
  let sel := data % 4
  let off := data / 4 % 65536
  let h := data / 262144
  if handleFits p h = false then .error .operandBits
  else if sel = 0 then if off = 0 then .ok (.bufRead c h .command) else .error .operandBits
  else if sel = 1 then if off = 0 then .ok (.bufRead c h .length) else .error .operandBits
  else if sel = 2 then
    if off < p.maxPayload then .ok (.bufRead c h (.payload (BitVec.ofNat 16 off))) else .error .offsetRange
  else .error .noSuchField

/-- An event word presented by itself (R77, R130): bits 31..17 must be zero. -/
def decodeWord (c : Ctx) (data : Nat) : Except DecodeError Instr :=
  if 2 ^ 32 ≤ data then .error .operandBits
  else if 2 ^ 17 ≤ data then .error .reservedWordBits
  else .ok (.eventWord c (decide (2 ^ 16 ≤ data)) (BitVec.ofNat 16 data))

/-- The decoder. `ps` is the parser state, which decides what a byte on RX is (R68). A byte on RX from a
context other than `IRX` is no received byte: it stays the undecoded RX_BYTE, which faults (R141). -/
def decode (p : Params) (ps : ParserState) (t : Txn) : Except DecodeError Instr :=
  match t.port with
  | .rx => byteOperand t.data fun b => if t.ctx = .irx then decodeByte ps b else .rxByte t.ctx b
  | .rxOp => byteOperand t.data (.rxByte t.ctx)
  | .cmd => byteOperand t.data (decodeTag t.ctx)
  | .edge =>
    if t.data < 2 ^ 17 then .ok (.edge t.ctx (BitVec.ofNat 16 t.data) (decide (2 ^ 16 ≤ t.data)))
    else .error .operandBits
  | .pqGet => noOperand t.data (.pqGet t.ctx)
  | .bufRd => decodeBufRead p t.ctx t.data
  | .rel => handleOperand p t.data (.poolRelease t.ctx)
  | .eqGet => noOperand t.data (.eqGet t.ctx)
  | .rst => noOperand t.data (.blockReset t.ctx)
  | .alloc => noOperand t.data (.poolAlloc t.ctx)
  | .pqPut => handleOperand p t.data (.pqTryPut t.ctx)
  | .eqPut =>
    if t.data < 2 ^ 32 then .ok (.eqTryPut t.ctx (BitVec.ofNat 32 t.data)) else .error .operandBits
  | .emit => noOperand t.data (.emit t.ctx)
  | .abort => noOperand t.data (.abort t.ctx)
  | .handle => handleOperand p t.data (.handle t.ctx)
  | .word => decodeWord t.ctx t.data
  | .run => .error .noLoop

/-- The transaction that stands for an opcode-table word of `nbits` bits: 8 bits are a byte on RX; 32 bits are an event
word, presented by its producer `IGPIO`. The other operations have no bits (R75). -/
def tableTxn (nbits w : Nat) : Option Txn :=
  if nbits = 8 then some { port := .rx, ctx := .irx, data := w }
  else if nbits = 32 then some { port := .word, ctx := .igpio, data := w }
  else none

/-- The operation the decoder reads from an opcode-table word, with the parser in `ReadCommand`, where the tag rows are
valid (R75). -/
def decodeTableWord (nbits w : Nat) : Option Instr :=
  match tableTxn nbits w with
  | none => none
  | some t => (decode Params.default .readCommand t).toOption

/-- A byte of the tag table in its caller's hands: on RX for `IRX`, in a worker's `case` for the others. -/
def byteTxn (c : Ctx) (b : Byte) : Txn :=
  { port := if c = .irx then .rx else .cmd, ctx := c, data := b.toNat }

/-- The 17 operand bits {is_rising, pin[15:0]} of R131 and R130. -/
def edgeBits (pin : Half) (rising : Bool) : Nat := (if rising then 2 ^ 16 else 0) + pin.toNat

/-- The operand bits of BUF.READ, as `decodeBufRead` reads them. -/
def bufReadBits (h : Nat) : BufField → Nat
  | .command => h * 262144
  | .length => h * 262144 + 1
  | .payload off => h * 262144 + off.toNat * 4 + 2

/-- The encoder: the transaction that presents an operation. -/
def encode : Instr → Txn
  | .spiSetup c => byteTxn c 0x01
  | .spiSetupAnswer c => byteTxn c 0x02
  | .spiTransfer c => byteTxn c 0x03
  | .spiTransferAnswer c => byteTxn c 0x04
  | .interruptRegister c => byteTxn c 0x05
  | .interruptRegisterAnswer c => byteTxn c 0x06
  | .interruptEvent c => byteTxn c 0x07
  | .wireReset c => byteTxn c 0x08
  | .resetAnswer c => byteTxn c 0x09
  | .invalidTag00 c => byteTxn c 0x00
  | .invalidTag0A c x => byteTxn c (0b0000101#7 ++ x)
  | .invalidTag0C c x => byteTxn c (0b000011#6 ++ x)
  | .invalidTag10 c x => byteTxn c (0b0001#4 ++ x)
  | .invalidTag20 c x => byteTxn c (0b001#3 ++ x)
  | .invalidTag40 c x => byteTxn c (0b01#2 ++ x)
  | .invalidTag80 c x => byteTxn c (0b1#1 ++ x)
  | .rxReadLenLow b => { port := .rx, ctx := .irx, data := b.toNat }
  | .rxReadLenHigh b => { port := .rx, ctx := .irx, data := b.toNat }
  | .rxReadData b => { port := .rx, ctx := .irx, data := b.toNat }
  | .rxByte c b => { port := .rxOp, ctx := c, data := b.toNat }
  | .edge c pin rising => { port := .edge, ctx := c, data := edgeBits pin rising }
  | .poolAlloc c => { port := .alloc, ctx := c, data := 0 }
  | .poolRelease c h => { port := .rel, ctx := c, data := h }
  | .pqTryPut c x => { port := .pqPut, ctx := c, data := x }
  | .pqGet c => { port := .pqGet, ctx := c, data := 0 }
  | .eqTryPut c x => { port := .eqPut, ctx := c, data := x.toNat }
  | .eqGet c => { port := .eqGet, ctx := c, data := 0 }
  | .bufRead c h f => { port := .bufRd, ctx := c, data := bufReadBits h f }
  | .blockReset c => { port := .rst, ctx := c, data := 0 }
  | .emit c => { port := .emit, ctx := c, data := 0 }
  | .abort c => { port := .abort, ctx := c, data := 0 }
  | .handle c h => { port := .handle, ctx := c, data := h }
  | .eventWord c rising pin => { port := .word, ctx := c, data := edgeBits pin rising }

/-- The parser state in which the encoded operation decodes to itself: the state of its row's `valid_when` (R75);
`ReadCommand` for the rows whose decoding does not look at `ps`. -/
def position : Instr → ParserState
  | .rxReadLenLow _ => .readLenLow
  | .rxReadLenHigh _ => .readLenHigh
  | .rxReadData _ => .readData
  | .spiSetup _ | .spiSetupAnswer _ | .spiTransfer _ | .spiTransferAnswer _ | .interruptRegister _ => .readCommand
  | .interruptRegisterAnswer _ | .interruptEvent _ | .wireReset _ | .resetAnswer _ => .readCommand
  | .invalidTag00 _ | .invalidTag0A _ _ | .invalidTag0C _ _ | .invalidTag10 _ _ | .invalidTag20 _ _ => .readCommand
  | .invalidTag40 _ _ | .invalidTag80 _ _ => .readCommand
  | .rxByte _ _ | .edge _ _ _ | .poolAlloc _ | .poolRelease _ _ | .pqTryPut _ _ | .pqGet _ => .readCommand
  | .eqTryPut _ _ | .eqGet _ | .bufRead _ _ _ | .blockReset _ | .emit _ | .abort _ => .readCommand
  | .handle _ _ | .eventWord _ _ _ => .readCommand

end Sys2Proof
end

