-- ==== Sys2Proof/Machine/Fetch.lean ====
section
/-! DEFINITION. How the next operation is found: the interleaving of the contexts' transactions (R144), the held workers
(R97, R172), and the two worker loops as the programs of their contexts (R161, R170). -/

namespace Sys2Proof.Machine

/-- The next operation of a worker's own loop: the dispatcher's `get`, its arm by the command of the packet it holds,
the sending of its answer, its release (R161); the event worker's `get`, decode, send (R170). -/
def loopStep (c : Ctx) (s : State) : Except DecodeError Instr :=
  match c with
  | .wdisp =>
    match s.wdisp with
    | .idle => .ok (.pqGet .wdisp)
    | .holding h => .ok (decodeTag .wdisp (s.command h))
    | .answering _ f => .ok (decodeTag .wdisp f.tag)
    | .answered h => .ok (.poolRelease .wdisp h)
  | .wevt =>
    match s.wevt with
    | .idle => .ok (.eqGet .wevt)
    | .holding ev => .ok (.eventWord .wevt (eventRising ev) (eventPin ev))
    | .sending _ => .ok (.interruptEvent .wevt)
  | .irx | .igpio | .platform | .reentry => .error .noLoop

/-- The operation a transaction is, in state `s`. -/
def fetch (s : State) (t : Txn) : Except DecodeError Instr :=
  match t.port with
  | .run => if t.data = 0 then loopStep t.ctx s else .error .operandBits
  | .rx | .rxOp | .edge | .pqGet | .bufRd | .rel | .eqGet | .rst | .alloc | .pqPut | .eqPut | .emit | .abort
  | .handle | .word | .cmd => decode s.cfg s.ps t

/-- The dispatcher is in `send` and the other worker holds the lock (R172). -/
def State.dispLockWait (s : State) : Bool :=
  match s.wdisp with
  | .answering _ _ => s.lockBusy .wdisp
  | .idle | .holding _ | .answered _ => false

/-- The event worker is in `send` and the other worker holds the lock (R172). -/
def State.evtLockWait (s : State) : Bool :=
  match s.wevt with
  | .sending _ => s.lockBusy .wevt
  | .idle | .holding _ => false

/-- The operation has no step in `s`: its caller, a worker, is held on its own empty queue (R97) or at the FrameWriter's
lock (R172). Every other operation is enabled in every state (R142). -/
def waits (i : Instr) (s : State) : Bool :=
  match i with
  | .pqGet .wdisp => !s.pqNotEmpty
  | .eqGet .wevt => !s.eqNotEmpty
  | .spiSetupAnswer .wdisp => s.dispLockWait
  | .spiTransferAnswer .wdisp => s.dispLockWait
  | .interruptRegisterAnswer .wdisp => s.dispLockWait
  | .resetAnswer .wdisp => s.dispLockWait
  | .interruptEvent .wevt => s.evtLockWait
  | _ => false

/-- The transaction has no step in `s`. -/
def held (s : State) (t : Txn) : Bool :=
  match fetch s t with
  | .ok i => waits i s
  | .error _ => false

/-- The transaction that takes the next step, and the trace without it: the first that is enabled and whose context has
no earlier transaction pending. A held context "makes no step of any kind" (R97): its request stays pending (R151) and
what it does next stays behind it, in its program order (R144). `blocked`: the contexts found held so far. -/
def pick (s : State) (blocked : List Ctx) : List Txn → Option (Txn × List Txn)
  | [] => none
  | t :: ts =>
    if blocked.contains t.ctx || held s t then
      (pick s (t.ctx :: blocked) ts).map fun (u, rest) => (u, t :: rest)
    else some (t, ts)

end Sys2Proof.Machine
end

