-- ==== Sys2Proof/Machine/Step.lean ====
section
/-! DEFINITION. One step: the next enabled transaction of the trace, as one atomic operation (R143, R144). -/

namespace Sys2Proof.Machine

/-- One step. With nothing pending, or every pending transaction held, nothing happens: the idle state of R97. -/
def step (s : State) : Host.Outcome State Fault Refusal :=
  match pick s [] s.trace with
  | none => .next s
  | some (t, rest) =>
    match fetch s t with
    | .ok i => exec i { s with trace := rest }
    | .error e => .refused (.undecodable e)

/-- `s` with the opcode-table word `w` of `nbits` bits as the next transaction: at the head of the trace, presented by an
interrupt context, which is never held. A tag row is valid in `ReadCommand` (R75), so an 8-bit word selects that
position; in `State.reset` it is selected already (notes/assumptions/5.md). -/
def State.withFetchWord (s : State) (nbits w : Nat) : State :=
  match tableTxn nbits w with
  | none => s
  | some t => { s with trace := t :: s.trace, ps := if nbits = 8 then .readCommand else s.ps }

end Sys2Proof.Machine
end

