-- ==== Sys2Proof/Machine/Trace.lean ====
section
/-! DEFINITION. The notation for traces (R73) and its pseudo-operations (R74), as lists of transactions. -/

namespace Sys2Proof.Machine

/-- `rx B0 … Bn`: one RX_BYTE per byte, in order. -/
def rxLine (bs : List Byte) : List Txn := bs.map fun b => { port := .rx, ctx := .irx, data := b.toNat }

/-- `edge P rising` / `edge P falling`, `P` a signed decimal pin. -/
def edgeLine (pin : Int) (rising : Bool) : List Txn := [encode (.edge .igpio (BitVec.ofInt 16 pin) rising)]

/-- `get pq`. -/
def getPqLine : List Txn := [encode (.pqGet .wdisp)]

/-- `get eq`. -/
def getEqLine : List Txn := [encode (.eqGet .wevt)]

/-- `read hK`: BUF.READ of the whole packet, `n` payload bytes. -/
def readLine (h : Nat) (n : Nat) : List Txn :=
  encode (.bufRead .wdisp h .command) :: encode (.bufRead .wdisp h .length) ::
    (List.range n).map fun i => encode (.bufRead .wdisp h (.payload (BitVec.ofNat 16 i)))

/-- `release hK`, at the REL port. -/
def releaseLine (h : Nat) : List Txn := [encode (.poolRelease .wdisp h)]

/-- `reset`: RESET, by the platform. -/
def resetLine : List Txn := [encode (.blockReset .platform)]

/-- The worker `c` takes the next `n` steps of its own loop (R161, R170). -/
def runLine (c : Ctx) (n : Nat) : List Txn := List.replicate n { port := .run, ctx := c, data := 0 }

/-- `tx B0 … Bn−1`: a worker sends one whole frame of `n` bytes: acquire the lock, `n` bytes, release it (R172). -/
def txLine (c : Ctx) (n : Nat) : List Txn := runLine c (n + 2)

/-- `frame NAME P0 … Pn−1` stands for `rx T L0 L1 P0 … Pn−1` (R74). -/
def frameLine (tag : Byte) (payload : List Byte) : List Txn :=
  rxLine (Frame.bytes { tag := tag, payload := payload })

/-- `dispatch`: the dispatcher's whole loop body on the head packet (R74, R161): `get pq`, the arm of its command with its
reads and adapter call, the `tx` of an answer of `n` bytes (none where `n` is 0), `release`. -/
def dispatchLine (n : Nat) : List Txn :=
  runLine .wdisp 2 ++ (if n = 0 then [] else txLine .wdisp n) ++ runLine .wdisp 1

end Sys2Proof.Machine
end

