-- ==== Sys2Proof/Safety.lean ====
section
/-! DEFINITION. What counts as a safe run, in the terms the statements use: the invariants of spec/10_state.md section 9,
who invokes an operation (R141), and running several bytes. -/

namespace Sys2Proof.Machine

/-- The context that invokes an operation (R141). The rx-state rows are bytes received by `IRX`. -/
def caller : Instr → Ctx
  | .spiSetup c | .spiSetupAnswer c | .spiTransfer c | .spiTransferAnswer c | .interruptRegister c => c
  | .interruptRegisterAnswer c | .interruptEvent c | .wireReset c | .resetAnswer c => c
  | .invalidTag00 c | .invalidTag0A c _ | .invalidTag0C c _ | .invalidTag10 c _ | .invalidTag20 c _ => c
  | .invalidTag40 c _ | .invalidTag80 c _ => c
  | .rxReadLenLow _ | .rxReadLenHigh _ | .rxReadData _ => .irx
  | .rxByte c _ | .edge c _ _ | .poolAlloc c | .poolRelease c _ | .pqTryPut c _ | .pqGet c | .eqTryPut c _ => c
  | .eqGet c | .bufRead c _ _ | .blockReset c | .emit c | .abort c | .handle c _ | .eventWord c _ _ => c

/-- A transaction at one of the seven ports of R150, or a worker's own loop: not one of the internal operations, which
happen only inside RX_BYTE and EDGE (R141) and which a test harness presents by themselves (R99). -/
def isPortTxn (t : Txn) : Bool :=
  match t.port with
  | .alloc | .pqPut | .eqPut | .emit | .abort => false
  | .rel => decide (t.ctx ≠ .irx)
  | .rx | .rxOp | .edge | .pqGet | .bufRd | .eqGet | .rst | .handle | .word | .cmd | .run => true

/-- Every pending transaction is at a port. -/
def PortsOnly (s : State) : Prop := ∀ t ∈ s.trace, isPortTxn t = true

/-- A queue as R18 and R36 say: `CAP` slots, both pointers in 0 .. 2·`CAP` − 1, at most `CAP` elements. -/
def Queue.Wf {α : Type} (cap : Nat) (q : Queue α) : Prop :=
  q.slot.length = cap ∧ q.wr < 2 * cap ∧ q.rd < 2 * cap ∧ q.count cap ≤ cap

/-- The shape of the state (R3, R10, R14, R19, R36, R40): the arrays have their sizes, the handles their width, the buffer
space its canonical form. -/
def Shape (s : State) : Prop :=
  s.cfg.ok ∧ s.free.length = s.cfg.nPackets ∧ s.own.length = s.cfg.nPackets ∧
  s.cur < 2 ^ s.cfg.handleW ∧
  s.pq.Wf s.cfg.pqCap ∧ (∀ x ∈ s.pq.slot, x < 2 ^ s.cfg.handleW) ∧ s.evq.Wf s.cfg.eqCap ∧
  Memory.wf s.mem ∧ (∀ e ∈ s.mem, e.1 < s.cfg.bufSpace)

/-- The handles in `PQ`, head first. -/
def State.queued (s : State) : List Nat := s.pq.items s.cfg.pqCap

/-- R30: `ps` = ReadCommand if and only if `held` = 0; in the other states the parser holds exactly the buffer `cur`. -/
def HoldsOne (s : State) : Prop :=
  (s.ps = .readCommand ↔ s.held = false) ∧ (s.held = true → s.cur < s.cfg.nPackets) ∧
  ∀ h < s.cfg.nPackets, s.owner h = .parser ↔ s.held = true ∧ s.cur = h

/-- R31: the byte counter, and the length and tag of the frame in construction. -/
def CounterOk (s : State) : Prop :=
  (s.ps ≠ .readData → s.cnt = 0) ∧
  (s.ps = .readData → (s.length s.cur).toNat ≤ s.cfg.maxPayload ∧ s.cnt.toNat < (s.length s.cur).toNat) ∧
  (s.ps ≠ .readCommand → validTag s.cfg (s.command s.cur) = true)

/-- R32, R33: the ownership partition. With `HoldsOne`, exactly one of FREE, PARSER, QUEUED, WORKER holds of each buffer
and agrees with `free`, `cur` and `PQ`. -/
def OwnPartition (s : State) : Prop :=
  (∀ h < s.cfg.nPackets, s.isFree h = true ↔ s.owner h = .free) ∧
  s.queued.Nodup ∧ (∀ h ∈ s.queued, h < s.cfg.nPackets) ∧
  ∀ h < s.cfg.nPackets, s.owner h = .queued ↔ h ∈ s.queued

/-- R35: every buffer handed off holds a valid tag and a length within `MAX_PAYLOAD`. -/
def PacketsOk (s : State) : Prop :=
  ∀ h < s.cfg.nPackets, s.owner h = .queued ∨ s.owner h = .worker →
    validTag s.cfg (s.command h) = true ∧ (s.length h).toNat ≤ s.cfg.maxPayload

/-- R37: every element of `EQ` has bits 31..17 zero. -/
def EventsOk (s : State) : Prop := ∀ ev ∈ s.evq.items s.cfg.eqCap, ev.toNat < 2 ^ 17

/-- The invariants of spec/10_state.md section 9. -/
def BlockInv (s : State) : Prop :=
  Shape s ∧ HoldsOne s ∧ CounterOk s ∧ OwnPartition s ∧ PacketsOk s ∧ EventsOk s

/-- What is still to be written of the frame whose sender holds the lock. -/
def State.unsent (s : State) : List Byte :=
  match s.writer with
  | none => []
  | some w => w.rest

/-- A frame that `send` may be given (R60, R172): its payload is within `MAX_PAYLOAD`, or has the 3 bytes of an InterruptEvent
(R171) where `MAX_PAYLOAD` is less, and its two length bytes count it. -/
def Frame.Fits (p : Params) (f : Frame) : Prop := f.payload.length ≤ max p.maxPayload 3 ∧ f.payload.length < 2 ^ 16

/-- What the workers have composed in their scratch buffers (R168) may be sent. -/
def ComposedFit (s : State) : Prop :=
  (∀ h f, s.wdisp = .answering h f → f.Fits s.cfg) ∧ ∀ f, s.wevt = .sending f → f.Fits s.cfg

/-- R173: with the unsent rest of the frame being sent, the outbound stream is a concatenation of whole frames. -/
def WholeFrames (s : State) : Prop :=
  ∃ fs : List Frame, (∀ f ∈ fs, f.Fits s.cfg) ∧ s.tx ++ s.unsent = (fs.map Frame.bytes).flatten

/-- A step leaves the specified behaviour (R187). -/
def Faults (s : State) : Prop := ∃ f, step s = .fault f

/-- The bytes `bs` received one after the other, with nothing in between. -/
def feed : List Byte → State → Result
  | [], s => .next s
  | b :: bs, s => andThen (exec (.rxByte .irx b) s) (feed bs)

end Sys2Proof.Machine
end

