-- ==== Sys2Proof/Certificates/Slice0/Obligations.lean ====
section
/-! DEFINITION. The statements for the provers. Each docstring cites the rule of spec/ it formalises. -/

namespace Sys2Proof.Machine

/-- The nine tags of R63, as met by context `c`, with their bytes. -/
def tagRows (c : Ctx) : List (Instr × Byte) :=
  [(.spiSetup c, 0x01), (.spiSetupAnswer c, 0x02), (.spiTransfer c, 0x03), (.spiTransferAnswer c, 0x04),
   (.interruptRegister c, 0x05), (.interruptRegisterAnswer c, 0x06), (.interruptEvent c, 0x07),
   (.wireReset c, 0x08), (.resetAnswer c, 0x09)]

/-- The four answer tags the dispatcher sends, with their bytes. -/
def answerRows : List (Instr × Byte) :=
  [(.spiSetupAnswer .wdisp, 0x02), (.spiTransferAnswer .wdisp, 0x04), (.interruptRegisterAnswer .wdisp, 0x06),
   (.resetAnswer .wdisp, 0x09)]

/-- The device→host tags, and the invalid tag 0x00, as met by the dispatcher in a packet, with their bytes. -/
def unknownRows : List (Instr × Byte) :=
  [(.spiSetupAnswer .wdisp, 0x02), (.spiTransferAnswer .wdisp, 0x04), (.interruptRegisterAnswer .wdisp, 0x06),
   (.interruptEvent .wdisp, 0x07), (.resetAnswer .wdisp, 0x09), (.invalidTag00 .wdisp, 0x00)]

/-- Every byte of the buffer space but those at `as` reads as before. -/
def bytesKept (s t : State) (as : List Nat) : Prop := ∀ a, a ∉ as → t.byteAt a = s.byteAt a

/-- `s` after its parser's successful put of `cur` and the parser reset (R109), with buffer space `m`. -/
def afterEmit (s : State) (m : List Host.Cell) : State :=
  { s with mem := m
           pq := { slot := s.pq.slot.set (s.pq.wr % s.cfg.pqCap) s.cur
                   wr := (s.pq.wr + 1) % (2 * s.cfg.pqCap), rd := s.pq.rd }
           own := s.own.set s.cur .queued
           held := false, cnt := 0, ps := .readCommand, out := .none }

/-- `s` after its parser's release of `cur` and the parser reset (R113), with buffer space `m` and the dropped
conditions `rs` recorded. -/
def afterGiveUp (s : State) (m : List Host.Cell) (rs : List DropReason) : State :=
  { s with mem := m, free := s.free.set s.cur true, own := s.own.set s.cur .free, log := s.log ++ rs
           held := false, cnt := 0, ps := .readCommand, out := .none }

/-- The parser owns buffer `cur`, so that its release is in order (R82). -/
def parserOwns (s : State) : Prop := s.cur < s.cfg.nPackets ∧ s.isFree s.cur = false ∧ s.owner s.cur = .parser

/-- Operation `i` opens a frame with tag byte `b`: a free buffer `h` becomes the parser's, its `command` is `b`, the
next byte is the low length byte, and nothing else changes (R81, R108). -/
def OpensFrame (i : Instr) (b : Byte) (s : State) : Prop :=
  ∃ h t, exec i s = .next t ∧ h < s.cfg.nPackets ∧ s.isFree h = true ∧
    t = { s with mem := t.mem, free := s.free.set h false, own := s.own.set h .parser, cur := h, held := true
                 ps := .readLenLow, allocChoice := s.allocChoice.tail, out := .none } ∧
    t.command h = b ∧ bytesKept s t [bufAddr s.cfg h 0]

/-- Operation `i` stores `b` as the low length byte (R110). -/
def StoresLengthLow (i : Instr) (b : Byte) (s : State) : Prop :=
  ∃ t, exec i s = .next t ∧ t = { s with mem := t.mem, ps := .readLenHigh, out := .none } ∧
    t.length s.cur = b.setWidth 16 ∧ bytesKept s t [bufAddr s.cfg s.cur 1, bufAddr s.cfg s.cur 2]

/-- The 16-bit length that high byte `b` completes: `buf[cur].length[7:0]` + 256·`b` (R61, R111). -/
def lengthWith (b : Byte) (s : State) : Nat := (s.length s.cur).toNat % 256 + 256 * b.toNat

/-- What operation `i` leaves after storing `b` as the high length byte is `e` of the new buffer space (R111). -/
def StoresLengthHigh (i : Instr) (b : Byte) (s : State) (e : List Host.Cell → State) : Prop :=
  ∃ t, exec i s = .next t ∧ t = e t.mem ∧ (t.length s.cur).toNat = lengthWith b s ∧
    bytesKept s t [bufAddr s.cfg s.cur 1, bufAddr s.cfg s.cur 2]

/-- What operation `i` leaves after storing `b` as the next payload byte is `e` of the new buffer space (R112). -/
def StoresPayload (i : Instr) (b : Byte) (s : State) (e : List Host.Cell → State) : Prop :=
  ∃ t, exec i s = .next t ∧ t = e t.mem ∧ t.payload s.cur s.cnt.toNat = b ∧
    bytesKept s t [payloadAddr s.cfg s.cur s.cnt.toNat]

/-- The dispatcher holds packet `h`, may read it (R44, R162), and finds command `cmd` in it (R161). -/
def dispatcherHolds (s : State) (h : Nat) (cmd : Byte) : Prop :=
  s.wdisp = .holding h ∧ h < s.cfg.nPackets ∧ s.owner h = .worker ∧ s.command h = cmd

/-- The owner that a release by context `c` must find (R82): PARSER for `IRX`, WORKER at the REL port. -/
def releaser (c : Ctx) : Owner := if c = .irx then .parser else .worker

/-- The parser states and `held` of R114's table after byte `b`. -/
def parserAfter (b : Byte) (s : State) : ParserState × Bool :=
  match s.ps with
  | .readCommand => if validTag s.cfg b = true ∧ s.exhausted = false then (.readLenLow, true) else (.readCommand, false)
  | .readLenLow => (.readLenHigh, true)
  | .readLenHigh =>
    if s.cfg.maxPayload < lengthWith b s ∨ lengthWith b s = 0 then (.readCommand, false) else (.readData, true)
  | .readData => if s.cnt.toNat + 1 < (s.length s.cur).toNat then (.readData, true) else (.readCommand, false)

/-- The operations that move the parser: a byte received by IRX (as a row of its position or as RX_BYTE), the two internal
procedures of RX_BYTE, and RESET (R114, R116). -/
def movesParser : Instr → Bool
  | .spiSetup c | .spiSetupAnswer c | .spiTransfer c | .spiTransferAnswer c | .interruptRegister c => decide (c = .irx)
  | .interruptRegisterAnswer c | .interruptEvent c | .wireReset c | .resetAnswer c => decide (c = .irx)
  | .invalidTag00 c | .invalidTag0A c _ | .invalidTag0C c _ | .invalidTag10 c _ | .invalidTag20 c _ => decide (c = .irx)
  | .invalidTag40 c _ | .invalidTag80 c _ | .rxByte c _ | .emit c | .abort c => decide (c = .irx)
  | .rxReadLenLow _ | .rxReadLenHigh _ | .rxReadData _ => true
  | .blockReset c => decide (c = .platform)
  | .edge _ _ _ | .poolAlloc _ | .poolRelease _ _ | .pqTryPut _ _ | .pqGet _ | .eqTryPut _ _ | .eqGet _ => false
  | .bufRead _ _ _ | .handle _ _ | .eventWord _ _ _ => false

end Sys2Proof.Machine

open Sys2Proof Sys2Proof.Machine

/-! ## Reset -/

/-- spec/10_state.md section 8 (R27): the values reset gives, with any parameters; State.reset is boot with the
defaults. Of what reset leaves unspecified nothing is stated. -/
def Obligations.BootHoldsResetValues : Prop :=
  ∀ p : Params, (State.boot p).ps = .readCommand ∧ (State.boot p).held = false ∧ (State.boot p).cnt = 0 ∧
    (∀ h < p.nPackets, (State.boot p).isFree h = true ∧ (State.boot p).owner h = .free) ∧
    (State.boot p).pq.wr = 0 ∧ (State.boot p).pq.rd = 0 ∧ (State.boot p).evq.wr = 0 ∧ (State.boot p).evq.rd = 0 ∧
    (State.boot p).log = [] ∧ State.reset = State.boot Params.default

/-- R210, R212: RESET by the platform, in any state: the block's registers at their reset values, both queues empty, the
pool full; the parameters, the adapters and the lock as they were. That the workers, the inputs and the trace are as they
were too is deduced from R212 (log entry 21). R210 says that no context of the block can invoke RESET; that its doing so is
WrongContext is deduced (log entry 11). -/
def Obligations.ResetRestoresTheBlockAlone : Prop :=
  ∀ s : State,
    (∃ t, exec (.blockReset .platform) s = .next t ∧
      t.ps = .readCommand ∧ t.held = false ∧ t.cnt = 0 ∧ t.log = [] ∧
      (∀ h < s.cfg.nPackets, t.isFree h = true ∧ t.owner h = .free) ∧
      t.pq.wr = 0 ∧ t.pq.rd = 0 ∧ t.evq.wr = 0 ∧ t.evq.rd = 0 ∧
      t.queued = [] ∧ t.evq.items t.cfg.eqCap = [] ∧
      t = { s with ps := t.ps, held := t.held, cur := t.cur, cnt := t.cnt, mem := t.mem, free := t.free, pq := t.pq
                   evq := t.evq, own := t.own, log := t.log, epoch := t.epoch, out := .none }) ∧
    ∀ c, c ≠ .platform → exec (.blockReset c) s = .fault .wrongContext

/-! ## The parser -/

/-- R106: an invalid tag in ReadCommand is discarded; nothing else changes. -/
def Obligations.InvalidTagIsDiscarded : Prop :=
  ∀ (s : State) (b : Byte), s.ps = .readCommand → validTag s.cfg b = false →
    exec (.rxByte .irx b) s = .next { s with log := s.log ++ [.invalidTag], out := .none }

/-- R69 (with the default tag range) and R106: every invalid-tag row, with every value its mask leaves open, is discarded. -/
def Obligations.InvalidTagRowsAreDiscarded : Prop :=
  ∀ s : State, s.ps = .readCommand → s.cfg.tagMin = 0x01 → s.cfg.tagMax = 0x09 →
    ∀ t : State, t = { s with log := s.log ++ [.invalidTag], out := .none } →
      exec (.invalidTag00 .irx) s = .next t ∧ (∀ x, exec (.invalidTag0A .irx x) s = .next t) ∧
      (∀ x, exec (.invalidTag0C .irx x) s = .next t) ∧ (∀ x, exec (.invalidTag10 .irx x) s = .next t) ∧
      (∀ x, exec (.invalidTag20 .irx x) s = .next t) ∧ (∀ x, exec (.invalidTag40 .irx x) s = .next t) ∧
      ∀ x, exec (.invalidTag80 .irx x) s = .next t

/-- R107: a valid tag with no buffer to be had is lost; nothing else changes. -/
def Obligations.TagWithoutBufferIsDropped : Prop :=
  ∀ (s : State) (b : Byte), s.ps = .readCommand → validTag s.cfg b = true → s.held = false → s.exhausted = true →
    exec (.rxByte .irx b) s = .next { s with log := s.log ++ [.noBuffer], out := .none }

/-- R108: a valid tag with a buffer to be had opens a frame; with a buffer held already (R121) that one is reused. The list
`allocChoice`, whose head the allocation uses up, is the model's (log entry 10). -/
def Obligations.ValidTagOpensAFrame : Prop :=
  ∀ (s : State) (b : Byte), s.ps = .readCommand → validTag s.cfg b = true →
    (s.held = false → s.exhausted = false → OpensFrame (.rxByte .irx b) b s) ∧
    (s.held = true → s.cur < s.cfg.nPackets →
      ∃ t, exec (.rxByte .irx b) s = .next t ∧ t = { s with mem := t.mem, ps := .readLenLow, out := .none } ∧
        t.command s.cur = b ∧ bytesKept s t [bufAddr s.cfg s.cur 0])

/-- R115 with R108: each of the nine tag rows, received by IRX, opens a frame with its own byte. The list `allocChoice`, whose
head the allocation uses up, is the model's (log entry 10). -/
def Obligations.TagRowsOpenAFrame : Prop :=
  ∀ s : State, s.ps = .readCommand → s.held = false → s.exhausted = false →
    ∀ r ∈ tagRows .irx, validTag s.cfg r.2 = true → OpensFrame r.1 r.2 s

/-- R110: every byte value is taken as the low length byte, zero-extended. -/
def Obligations.LowLengthByteIsStored : Prop :=
  ∀ (s : State) (b : Byte), s.ps = .readLenLow → s.cur < s.cfg.nPackets →
    StoresLengthLow (.rxByte .irx b) b s ∧ StoresLengthLow (.rxReadLenLow b) b s

/-- R111: the high length byte: oversize first, then zero (put, or dropped on a full queue), else the payload follows. -/
def Obligations.HighLengthByteDecides : Prop :=
  ∀ (s : State) (b : Byte), s.ps = .readLenHigh → parserOwns s →
    ∀ i ∈ [Instr.rxByte .irx b, .rxReadLenHigh b],
      (s.cfg.maxPayload < lengthWith b s →
        StoresLengthHigh i b s fun m => afterGiveUp s m [.oversizeLength]) ∧
      (lengthWith b s = 0 → s.pq.count s.cfg.pqCap ≠ s.cfg.pqCap →
        StoresLengthHigh i b s fun m => afterEmit s m) ∧
      (lengthWith b s = 0 → s.pq.count s.cfg.pqCap = s.cfg.pqCap →
        StoresLengthHigh i b s fun m => afterGiveUp s m [.queueFullFrame]) ∧
      (lengthWith b s ≠ 0 → lengthWith b s ≤ s.cfg.maxPayload →
        StoresLengthHigh i b s fun m => { s with mem := m, cnt := 0, ps := .readData, out := .none })

/-- R112, R43: a payload byte is stored at the counter; when the counter reaches `length` the frame is emitted. The number
`stores` of payload stores is the model's (log entry 9). -/
def Obligations.PayloadByteIsStored : Prop :=
  ∀ (s : State) (b : Byte), s.ps = .readData → parserOwns s → s.cnt.toNat < s.cfg.maxPayload →
    ∀ i ∈ [Instr.rxByte .irx b, .rxReadData b],
      (s.cnt + 1 ≠ s.length s.cur →
        StoresPayload i b s fun m => { s with mem := m, stores := s.stores + 1, cnt := s.cnt + 1, out := .none }) ∧
      (s.cnt + 1 = s.length s.cur → s.pq.count s.cfg.pqCap ≠ s.cfg.pqCap →
        StoresPayload i b s fun m => { afterEmit s m with stores := s.stores + 1 }) ∧
      (s.cnt + 1 = s.length s.cur → s.pq.count s.cfg.pqCap = s.cfg.pqCap →
        StoresPayload i b s fun m => { afterGiveUp s m [.queueFullFrame] with stores := s.stores + 1 })

/-- R109: EMIT: the packet is put, or on a full queue dropped and its buffer released; either way nothing is held. -/
def Obligations.EmitPutsOrReleases : Prop :=
  ∀ s : State,
    (s.pq.count s.cfg.pqCap ≠ s.cfg.pqCap → exec (.emit .irx) s = .next (afterEmit s s.mem)) ∧
    (s.pq.count s.cfg.pqCap = s.cfg.pqCap → parserOwns s →
      exec (.emit .irx) s = .next (afterGiveUp s s.mem [.queueFullFrame]))

/-- R113: ABORT: the buffer is released and the parser holds nothing. -/
def Obligations.AbortReleases : Prop :=
  ∀ s : State, parserOwns s → exec (.abort .irx) s = .next (afterGiveUp s s.mem [])

/-- R105, R68: the row a received byte decodes to means what RX_BYTE means, in every state and for every byte. -/
def Obligations.DecodedByteMeansRxByte : Prop :=
  ∀ (s : State) (b : Byte), exec (decodeByte s.ps b) s = exec (.rxByte .irx b) s

/-- R105, R142: in every state with the invariants, RX_BYTE raises no fault and never blocks. -/
def Obligations.RxByteNeverFaults : Prop :=
  ∀ (s : State) (b : Byte), BlockInv s → ∃ t, exec (.rxByte .irx b) s = .next t ∧ t.out = .none

/-- R114: `ps` and `held` after a byte are what the transition table says. -/
def Obligations.ParserFollowsTransitionTable : Prop :=
  ∀ (s t : State) (b : Byte), BlockInv s → exec (.rxByte .irx b) s = .next t → (t.ps, t.held) = parserAfter b s

/-- R193: one RX_BYTE raises at most one recovered condition; an invalid tag is InvalidTag even on an exhausted pool. -/
def Obligations.OneDropPerByte : Prop :=
  ∀ (s t : State) (b : Byte), exec (.rxByte .irx b) s = .next t →
    (t.log = s.log ∨ ∃ r, t.log = s.log ++ [r] ∧ r ≠ .queueFullEvent) ∧
    (s.ps = .readCommand → validTag s.cfg b = false → t.log = s.log ++ [.invalidTag])

/-- R105: RX_BYTE touches nothing of `EQ`, and nothing of the environment. -/
def Obligations.RxByteTouchesParserPoolAndPq : Prop :=
  ∀ (s t : State) (b : Byte), exec (.rxByte .irx b) s = .next t →
    t = { s with ps := t.ps, held := t.held, cur := t.cur, cnt := t.cnt, mem := t.mem, free := t.free, own := t.own
                 pq := { s.pq with slot := t.pq.slot, wr := t.pq.wr }, log := t.log, allocChoice := t.allocChoice
                 stores := t.stores, out := .none }

/-- R114, R116: no timeout, and nothing but a received byte, its two procedures EMIT and ABORT, or RESET moves the parser: not
even POOL.ALLOC, POOL.RELEASE, PQ.TRY_PUT or HANDLE presented by IRX. That these can be presented by themselves is the
model's (log entries 12 and 23). -/
def Obligations.OnlyBytesAndResetMoveTheParser : Prop :=
  ∀ (i : Instr) (s t : State), exec i s = .next t → movesParser i = false →
    t.ps = s.ps ∧ t.held = s.held ∧ t.cur = s.cur ∧ t.cnt = s.cnt

/-- R119: a whole frame with valid tag `g` and payload `p`, received in ReadCommand with a free buffer and room in `PQ`, is
one new packet at the tail of `PQ` with that tag, length and payload; nothing is dropped. The bytes come one after the
other; operations of other contexts between them (R144) are left out here. -/
def Obligations.FrameIsReceivedWhole : Prop :=
  ∀ (s : State) (g : Byte) (p : List Byte), BlockInv s → s.ps = .readCommand → validTag s.cfg g = true →
    p.length ≤ s.cfg.maxPayload → s.exhausted = false → s.pq.count s.cfg.pqCap < s.cfg.pqCap →
    ∃ h t, feed (Frame.bytes { tag := g, payload := p }) s = .next t ∧
      s.isFree h = true ∧ h < s.cfg.nPackets ∧ t.ps = .readCommand ∧ t.held = false ∧ t.queued = s.queued ++ [h] ∧
      t.owner h = .queued ∧ t.free = s.free.set h false ∧ t.log = s.log ∧
      t.command h = g ∧ (t.length h).toNat = p.length ∧ (∀ i, i < p.length → some (t.payload h i) = p[i]?)

/-- R221: a host that sends zeros ends any frame in construction: at most 2 + `MAX_PAYLOAD` zero bytes bring the parser
back to ReadCommand. The bytes come with nothing in between. -/
def Obligations.ZerosEndAnyFrame : Prop :=
  ∀ s : State, BlockInv s →
    ∃ n t, n ≤ 2 + s.cfg.maxPayload ∧ feed (List.replicate n 0) s = .next t ∧ t.ps = .readCommand ∧ t.held = false

/-! ## The pool -/

/-- R81: POOL.ALLOC: `none` and no change on an exhausted pool, else some free buffer, which is then the parser's. The list
`allocChoice`, whose head is used up, is the model's (log entry 10). -/
def Obligations.AllocTakesAFreeBuffer : Prop :=
  ∀ s : State,
    (s.exhausted = true → exec (.poolAlloc .irx) s = .next { s with out := .noHandle }) ∧
    (s.exhausted = false → ∃ h, h < s.cfg.nPackets ∧ s.isFree h = true ∧
      exec (.poolAlloc .irx) s = .next { s with free := s.free.set h false, own := s.own.set h .parser
                                                allocChoice := s.allocChoice.tail, out := .handle h })

/-- D8: every free buffer can be the one handed out, since `alloc_choice` is open. That the choice is the head of the input
list `allocChoice` is the model's (log entry 10). -/
def Obligations.EveryFreeBufferCanBeChosen : Prop :=
  ∀ (s : State) (h : Nat), h < s.cfg.nPackets → s.isFree h = true → s.allocChoice.head? = some h →
    ∃ t, exec (.poolAlloc .irx) s = .next t ∧ t.out = .handle h

/-- R81: two allocations with no release between return two different handles. -/
def Obligations.TwoAllocationsDiffer : Prop :=
  ∀ (s t u : State) (h k : Nat), Shape s → exec (.poolAlloc .irx) s = .next t → t.out = .handle h →
    exec (.poolAlloc .irx) t = .next u → u.out = .handle k → h ≠ k

/-- R82, R188, D17: POOL.RELEASE: the faults in their order, and otherwise the buffer is free again; a release by the
dispatcher also ends its processing step (its record of it is the model's: log entry 22). That WrongContext comes after the
faults of the handle is read from D17's list, and that whoever presents a release at the REL port is caller WORKER from R82
(log entry 31). -/
def Obligations.ReleaseFreesOrFaults : Prop :=
  ∀ (s : State) (h : Nat) (c : Ctx),
    (s.cfg.nPackets ≤ h → exec (.poolRelease c h) s = .fault .badHandle) ∧
    (h < s.cfg.nPackets → s.isFree h = true → exec (.poolRelease c h) s = .fault .doubleRelease) ∧
    (h < s.cfg.nPackets → s.isFree h = false → s.owner h ≠ releaser c →
      exec (.poolRelease c h) s = .fault .foreignRelease) ∧
    (h < s.cfg.nPackets → s.isFree h = false → s.owner h = releaser c → c ≠ .irx → c ≠ .wdisp →
      exec (.poolRelease c h) s = .fault .wrongContext) ∧
    (h < s.cfg.nPackets → s.isFree h = false → s.owner h = releaser c → c = .irx ∨ c = .wdisp →
      exec (.poolRelease c h) s = .next { s with free := s.free.set h true, own := s.own.set h .free, out := .none
                                                 wdisp := if c = .wdisp then s.wdisp.forget h else s.wdisp })

/-- R32, R86: conservation: free buffers, the one in construction, the queued ones and those being handled are together
all the buffers. -/
def Obligations.BuffersAreConserved : Prop :=
  ∀ s : State, BlockInv s →
    s.freeSet.length + (if s.held then 1 else 0) + s.pq.count s.cfg.pqCap +
      ((List.range s.cfg.nPackets).filter fun h => decide (s.owner h = .worker)).length = s.cfg.nPackets

/-! ## The queues -/

/-- R92: TRY_PUT on either queue: fails, with no change, exactly when the queue holds `CAP` elements; else stores. -/
def Obligations.TryPutStoresUnlessFull : Prop :=
  ∀ (s : State) (x : Nat) (ev : Word),
    (s.pq.count s.cfg.pqCap = s.cfg.pqCap → exec (.pqTryPut .irx x) s = .next { s with out := .bool false }) ∧
    (s.pq.count s.cfg.pqCap ≠ s.cfg.pqCap → exec (.pqTryPut .irx x) s = .next { s with
      pq := { slot := s.pq.slot.set (s.pq.wr % s.cfg.pqCap) x, wr := (s.pq.wr + 1) % (2 * s.cfg.pqCap), rd := s.pq.rd }
      own := s.own.set x .queued, out := .bool true }) ∧
    (s.evq.count s.cfg.eqCap = s.cfg.eqCap → exec (.eqTryPut .igpio ev) s = .next { s with out := .bool false }) ∧
    (s.evq.count s.cfg.eqCap ≠ s.cfg.eqCap → exec (.eqTryPut .igpio ev) s = .next { s with
      evq := { slot := s.evq.slot.set (s.evq.wr % s.cfg.eqCap) ev, wr := (s.evq.wr + 1) % (2 * s.cfg.eqCap)
               rd := s.evq.rd }
      out := .bool true })

/-- R93: GET on either queue returns the oldest element present and advances the consumer pointer. What the two workers' own
records hold then, whatever they held before, is the model's (log entries 16, 17 and 22). -/
def Obligations.GetReturnsTheOldest : Prop :=
  (∀ (s : State) (x : Nat) (xs : List Nat), s.pq.Wf s.cfg.pqCap → s.queued = x :: xs →
    exec (.pqGet .wdisp) s = .next { s with pq := { s.pq with rd := (s.pq.rd + 1) % (2 * s.cfg.pqCap) }
                                            own := s.own.set x .worker, wdisp := .holding x, out := .handle x } ∧
    ({ s.pq with rd := (s.pq.rd + 1) % (2 * s.cfg.pqCap) } : Queue Nat).items s.cfg.pqCap = xs) ∧
  (∀ (s : State) (ev : Word) (evs : List Word), s.evq.Wf s.cfg.eqCap → s.evq.items s.cfg.eqCap = ev :: evs →
    exec (.eqGet .wevt) s = .next { s with evq := { s.evq with rd := (s.evq.rd + 1) % (2 * s.cfg.eqCap) }
                                           wevt := .holding ev, out := .event ev } ∧
    ({ s.evq with rd := (s.evq.rd + 1) % (2 * s.cfg.eqCap) } : Queue Word).items s.cfg.eqCap = evs)

/-- R100: the pointer form refines the abstract form: TRY_PUT appends unless there are `CAP` items; GET is enabled when there
is an item, and removes and returns the head; both keep the queue well-formed (R36). For elements of any type, so for `PQ`
and for `EQ` (R90). -/
def Obligations.QueueRefinesFifo : Prop :=
  ∀ (α : Type) (cap : Nat) (q : Queue α), 1 ≤ cap → q.Wf cap →
    (q.items cap).length ≤ cap ∧
    (∀ x, (q.items cap).length = cap → q.tryPut cap x = (false, q)) ∧
    (∀ x, (q.items cap).length ≠ cap →
      ∃ q', q.tryPut cap x = (true, q') ∧ q'.items cap = q.items cap ++ [x] ∧ q'.Wf cap) ∧
    (q.items cap = [] → q.get cap = none) ∧
    (∀ x xs, q.items cap = x :: xs → ∃ q', q.get cap = some (x, q') ∧ q'.items cap = xs ∧ q'.Wf cap)

/-- R34: with `PQ_CAP` ≥ `N_PACKETS`, a parser that holds a buffer finds room in `PQ`. -/
def Obligations.PacketQueueNeverFullForTheParser : Prop :=
  ∀ s : State, BlockInv s → s.held = true →
    s.pq.count s.cfg.pqCap ≤ s.cfg.nPackets - 1 ∧
    (s.cfg.nPackets ≤ s.cfg.pqCap → s.pq.count s.cfg.pqCap < s.cfg.pqCap)

/-- R97: GET on an empty queue: the caller is held, and no state of the block or the environment changes. That `exec` then
answers a next state with the result `held` is the model's (log entry 27); `step` makes no such step. -/
def Obligations.GetOnEmptyQueueHolds : Prop :=
  ∀ s : State,
    (s.pq.count s.cfg.pqCap = 0 → exec (.pqGet .wdisp) s = .next { s with out := .held }) ∧
    (s.evq.count s.cfg.eqCap = 0 → exec (.eqGet .wevt) s = .next { s with out := .held })

/-! ## The event relay -/

/-- R131: EDGE puts the event word, or on a full queue drops the event; nothing else of the machine changes; any pin. -/
def Obligations.EdgeQueuesOrDrops : Prop :=
  ∀ (s : State) (pin : Half) (rising : Bool),
    (s.evq.count s.cfg.eqCap ≠ s.cfg.eqCap → exec (.edge .igpio pin rising) s = .next { s with
      evq := { slot := s.evq.slot.set (s.evq.wr % s.cfg.eqCap) (encodeEvent pin rising)
               wr := (s.evq.wr + 1) % (2 * s.cfg.eqCap), rd := s.evq.rd }
      out := .none }) ∧
    (s.evq.count s.cfg.eqCap = s.cfg.eqCap →
      exec (.edge .igpio pin rising) s = .next { s with log := s.log ++ [.queueFullEvent], out := .none })

/-- R133: for every 16-bit signed pin and every direction, decode of encode is the pair. That a signed pin is a two's-complement
number is PRESUMED (log entry 26; R130 marks it as not in the source). -/
def Obligations.EventWordRoundTrip : Prop :=
  ∀ (pin : Int) (rising : Bool), -32768 ≤ pin → pin ≤ 32767 →
    decodeEvent (encodeEvent (BitVec.ofInt 16 pin) rising) = (pin, rising)

/-- R192: EDGE and RX_BYTE act on disjoint state: the other order completes too and gives the same state, but for the order of
the ghost log and the last result. -/
def Obligations.EdgeCommutesWithRxByte : Prop :=
  ∀ (s s1 s2 : State) (b : Byte) (pin : Half) (rising : Bool),
    exec (.rxByte .irx b) s = .next s1 → exec (.edge .igpio pin rising) s1 = .next s2 →
    ∃ t1 t2, exec (.edge .igpio pin rising) s = .next t1 ∧ exec (.rxByte .irx b) t1 = .next t2 ∧
      s2 = { t2 with log := s2.log, out := s2.out } ∧ s2.log.Perm t2.log

/-! ## Ports, contexts, internal words -/

/-- R44: BUF.READ by the dispatcher of a buffer it owns: the field, with no effect on the machine; at or beyond `length`
some byte; otherwise the faults in the order of R188, and WrongContext after them as in D17's list (log entry 31). -/
def Obligations.BufReadReturnsTheField : Prop :=
  ∀ (s : State) (h : Nat),
    (s.cfg.nPackets ≤ h → ∀ c f, exec (.bufRead c h f) s = .fault .badHandle) ∧
    (h < s.cfg.nPackets → s.owner h ≠ .worker → ∀ c f, exec (.bufRead c h f) s = .fault .foreignAccess) ∧
    (h < s.cfg.nPackets → s.owner h = .worker → ∀ c f, c ≠ .wdisp → exec (.bufRead c h f) s = .fault .wrongContext) ∧
    (h < s.cfg.nPackets → s.owner h = .worker →
      exec (.bufRead .wdisp h .command) s = .next { s with out := .byte (s.command h) } ∧
      exec (.bufRead .wdisp h .length) s = .next { s with out := .half (s.length h) } ∧
      ∀ off : Half, off.toNat < s.cfg.maxPayload →
        (off.toNat < (s.length h).toNat →
          exec (.bufRead .wdisp h (.payload off)) s = .next { s with out := .byte (s.payload h off.toNat) }) ∧
        ∃ v, exec (.bufRead .wdisp h (.payload off)) s = .next { s with out := .byte v })

/-- R141: the table of who may invoke what, row by row: any other context is WrongContext. For the two rows with a handle,
where none of the handle's own faults applies first: D17 lists WrongContext last (log entry 31). -/
def Obligations.WrongContextFaults : Prop :=
  ∀ (s : State) (c : Ctx),
    (c ≠ .irx → (∀ b, exec (.rxByte c b) s = .fault .wrongContext) ∧
      exec (.poolAlloc c) s = .fault .wrongContext ∧ ∀ x, exec (.pqTryPut c x) s = .fault .wrongContext) ∧
    (c ≠ .irx → c ≠ .wdisp → ∀ h, h < s.cfg.nPackets → s.isFree h = false → s.owner h = .worker →
      exec (.poolRelease c h) s = .fault .wrongContext) ∧
    (c ≠ .wdisp → exec (.pqGet c) s = .fault .wrongContext ∧
      ∀ h f, h < s.cfg.nPackets → s.owner h = .worker → exec (.bufRead c h f) s = .fault .wrongContext) ∧
    (c ≠ .igpio → (∀ pin r, exec (.edge c pin r) s = .fault .wrongContext) ∧
      ∀ x, exec (.eqTryPut c x) s = .fault .wrongContext) ∧
    (c ≠ .wevt → exec (.eqGet c) s = .fault .wrongContext)

/-- R141, the state split, over every operation: the parser registers and the buffer contents are written by IRX alone, `PQ.wr`
by IRX, `PQ.rd` by WDISP, `EQ.wr` by IGPIO, `EQ.rd` by WEVT, `free` by IRX and WDISP; RESET by the platform apart. -/
def Obligations.StateSplitsByContext : Prop :=
  ∀ (i : Instr) (s t : State), exec i s = .next t → caller i ≠ .platform →
    (caller i ≠ .irx → t.ps = s.ps ∧ t.held = s.held ∧ t.cur = s.cur ∧ t.cnt = s.cnt ∧ t.pq.wr = s.pq.wr ∧
      t.pq.slot = s.pq.slot ∧ ∀ a, t.byteAt a = s.byteAt a) ∧
    (caller i ≠ .wdisp → t.pq.rd = s.pq.rd) ∧
    (caller i ≠ .igpio → t.evq.wr = s.evq.wr ∧ t.evq.slot = s.evq.slot) ∧
    (caller i ≠ .wevt → t.evq.rd = s.evq.rd) ∧
    (caller i ≠ .irx → caller i ≠ .wdisp → t.free = s.free)

/-- R76, R47: a handle presented by IRX or WDISP names a buffer, or is BadHandle. That a handle is an operation by itself, which
answers the handle, is deduced (log entry 23; R47 speaks of the REL and BUFRD ports). -/
def Obligations.HandleNamesABuffer : Prop :=
  ∀ (s : State) (h : Nat), ∀ c ∈ [Ctx.irx, .wdisp],
    (h < s.cfg.nPackets → exec (.handle c h) s = .next { s with out := .handle h }) ∧
    (s.cfg.nPackets ≤ h → exec (.handle c h) s = .fault .badHandle)

/-- R77, R130: the producer of an event word makes bits 15..0 the pin, bit 16 the direction, and the rest zero. That encoding is
an operation by itself, presented by IGPIO and answering the word, is deduced (log entry 23). -/
def Obligations.EventWordIsEncoded : Prop :=
  ∀ (s : State) (pin : Half) (rising : Bool), ∃ ev : Word,
    exec (.eventWord .igpio rising pin) s = .next { s with out := .event ev } ∧
    ev.extractLsb' 0 16 = pin ∧ ev.getLsbD 16 = rising ∧ ev.extractLsb' 17 15 = 0

/-! ## The workers -/

/-- R163: SpiSetup: fewer than 7 bytes draw a nack with no adapter call; else one call with the decoded frequency, mode and
pins, answered by the adapter's result. That a success registers the pins is deduced from R179, and that a failure
registers none is the model's (both log entry 19); that the arm is one step, and that the result is the head of the input list
`replies`, are the model's too (log entries 17 and 18), as is what the payload reads as beyond `MAX_PAYLOAD`, in a packet longer
than that, which no run at the ports makes (log entry 15). -/
def Obligations.SpiSetupIsDispatched : Prop :=
  ∀ (s : State) (h : Nat), dispatcherHolds s h 0x01 →
    ((s.length h).toNat < 7 → exec (.spiSetup .wdisp) s =
      .next { s with wdisp := .answering h { tag := 0x02, payload := [0x02] }, out := .none }) ∧
    (7 ≤ (s.length h).toNat → ∃ t pins, exec (.spiSetup .wdisp) s = .next t ∧
      t = { s with
        calls := s.calls ++ [.spiSetup (s.payload h 3 ++ s.payload h 2 ++ s.payload h 1 ++ s.payload h 0)
          (s.payload h 4) pins]
        replies := s.replies.tail, spiPins := t.spiPins, out := .none
        wdisp := .answering h { tag := 0x02, payload := [if s.nextReply.ok then 0x01 else 0x02] } } ∧
      pins.length = ((s.length h).toNat - 5) / 2 ∧
      (∀ i, i < pins.length → pins[i]? = some (s.payload h (6 + 2 * i) ++ s.payload h (5 + 2 * i))) ∧
      (s.nextReply.ok = false → t.spiPins = s.spiPins) ∧
      (s.nextReply.ok = true → ∀ pin ∈ pins, ∃ m, (pin, m) ∈ t.spiPins))

/-- R164: SpiTransfer (one step, by log entry 17): fewer than 2 bytes draw an empty answer with no adapter call; else the
answer has as many bytes as were sent, whatever the adapter reports, and the adapter's bytes where it wrote them. That the
adapter's answer is the head of the input list `replies` (log entry 18), its bytes a written prefix (log entry 20), is the
model's. -/
def Obligations.SpiTransferIsDispatched : Prop :=
  ∀ (s : State) (h : Nat), dispatcherHolds s h 0x03 → (s.length h).toNat ≤ s.cfg.maxPayload →
    ((s.length h).toNat < 2 → exec (.spiTransfer .wdisp) s =
      .next { s with wdisp := .answering h { tag := 0x04, payload := [] }, out := .none }) ∧
    (2 ≤ (s.length h).toNat → ∃ bytes rx, exec (.spiTransfer .wdisp) s = .next { s with
        calls := s.calls ++ [.spiTransfer (s.payload h 1 ++ s.payload h 0) bytes]
        replies := s.replies.tail, out := .none, wdisp := .answering h { tag := 0x04, payload := rx } } ∧
      bytes.length = (s.length h).toNat - 2 ∧ rx.length = bytes.length ∧
      (∀ i, i < bytes.length → bytes[i]? = some (s.payload h (2 + i))) ∧
      ∀ i v, i < bytes.length → s.nextReply.rx[i]? = some v → rx[i]? = some v)

/-- R165: InterruptRegister (one step, by log entry 17): a length other than 3 or a mode outside 1..3 draws a nack with no
adapter call; else one call, refused for a pin already registered. That each call uses up the head of the input list
`replies`, even for a registered pin, is the model's (log entry 18); that a success is kept as a registration is deduced from
R179 (log entry 19). With `MAX_PAYLOAD` below 3 a packet of length 3 is one no run at the ports makes, and what its payload
reads as beyond `MAX_PAYLOAD` is the model's (log entry 15). -/
def Obligations.InterruptRegisterIsDispatched : Prop :=
  ∀ (s : State) (h : Nat), dispatcherHolds s h 0x05 →
    (s.length h ≠ 3 ∨ (s.payload h 2).toNat < 1 ∨ 3 < (s.payload h 2).toNat → exec (.interruptRegister .wdisp) s =
      .next { s with wdisp := .answering h { tag := 0x06, payload := [0x02] }, out := .none }) ∧
    (s.length h = 3 → 1 ≤ (s.payload h 2).toNat → (s.payload h 2).toNat ≤ 3 →
      ∀ pin : Half, pin = s.payload h 1 ++ s.payload h 0 → ∃ ok, exec (.interruptRegister .wdisp) s = .next { s with
          calls := s.calls ++ [.gpioRegister pin (s.payload h 2)], replies := s.replies.tail, out := .none
          gpioPins := if ok then s.gpioPins ++ [(pin, s.payload h 2)] else s.gpioPins
          wdisp := .answering h { tag := 0x06, payload := [if ok then 0x01 else 0x02] } } ∧
        (ok = true ↔ s.nextReply.ok = true ∧ ∀ m, (pin, m) ∉ s.gpioPins))

/-- R166, R211: the wire command Reset (one step, by log entry 17) resets the adapters, draws an ack whatever its length,
and touches nothing of the block. -/
def Obligations.WireResetResetsAdaptersOnly : Prop :=
  ∀ (s : State) (h : Nat), dispatcherHolds s h 0x08 → exec (.wireReset .wdisp) s =
    .next { s with calls := s.calls ++ [.spiReset, .gpioReset], spiPins := [], gpioPins := [], out := .none
                   wdisp := .answering h { tag := 0x09, payload := [0x01] } }

/-- R167, R72: a device→host tag received from the host, and a tag the parser would not have let through, draw no answer and
no adapter call. That the arm is one step is the model's (log entry 17); that an invalid tag at the dispatcher takes this arm
is deduced (log entry 25). -/
def Obligations.UnknownTagDrawsNoAnswer : Prop :=
  ∀ (s : State) (h : Nat) (t : State), t = { s with wdisp := .answered h, out := .none } →
    (∀ r ∈ unknownRows, dispatcherHolds s h r.2 → exec r.1 s = .next t) ∧
    (∀ x, dispatcherHolds s h (0b0000101#7 ++ x) → exec (.invalidTag0A .wdisp x) s = .next t) ∧
    (∀ x, dispatcherHolds s h (0b000011#6 ++ x) → exec (.invalidTag0C .wdisp x) s = .next t) ∧
    (∀ x, dispatcherHolds s h (0b0001#4 ++ x) → exec (.invalidTag10 .wdisp x) s = .next t) ∧
    (∀ x, dispatcherHolds s h (0b001#3 ++ x) → exec (.invalidTag20 .wdisp x) s = .next t) ∧
    (∀ x, dispatcherHolds s h (0b01#2 ++ x) → exec (.invalidTag40 .wdisp x) s = .next t) ∧
    ∀ x, dispatcherHolds s h (0b1#1 ++ x) → exec (.invalidTag80 .wdisp x) s = .next t

/-- R172, R173: `send` by the dispatcher: it takes the free lock with the frame's bytes, waits while another holds it, writes
one byte a step, and releases it after the last. The division into these steps is the model's (log entry 17), and so is that
waiting is a next state with the result `held` (log entry 27). -/
def Obligations.DispatcherSendsItsAnswer : Prop :=
  ∀ (s : State) (h : Nat) (f : Frame), s.wdisp = .answering h f → ∀ r ∈ answerRows, f.tag = r.2 →
    (s.writer = none → exec r.1 s = .next { s with writer := some { holder := .wdisp, rest := f.bytes }, out := .none }) ∧
    (∀ w, s.writer = some w → w.holder ≠ .wdisp → exec r.1 s = .next { s with out := .held }) ∧
    (∀ b bs, s.writer = some { holder := .wdisp, rest := b :: bs } → exec r.1 s =
      .next { s with tx := s.tx ++ [b], writer := some { holder := .wdisp, rest := bs }, out := .none }) ∧
    (s.writer = some { holder := .wdisp, rest := [] } → exec r.1 s =
      .next { s with writer := none, wdisp := .answered h, out := .none })

/-- R170: the event worker decodes the word it holds and composes the InterruptEvent frame in its scratch buffer. That both are
one step is the model's (log entry 17); that EVENT_WORD with the held word's fields is that step is deduced (log entry 23). -/
def Obligations.EventWorkerComposesTheFrame : Prop :=
  ∀ (s : State) (ev : Word), s.wevt = .holding ev →
    exec (.eventWord .wevt (ev.getLsbD 16) (ev.extractLsb' 0 16)) s = .next { s with
      wevt := .sending { tag := 0x07, payload :=
        [ev.extractLsb' 0 8, ev.extractLsb' 8 8, if ev.getLsbD 16 then 0x01 else 0x02] }
      out := .pair (ev.extractLsb' 0 16) (ev.getLsbD 16) }

/-- R172, R173: `send` by the event worker, in the same four cases; after it the worker is back at its `get`. The division into
these steps is the model's (log entry 17), and so is that waiting is a next state with the result `held` (log entry 27). -/
def Obligations.EventWorkerSendsItsFrame : Prop :=
  ∀ (s : State) (f : Frame), s.wevt = .sending f →
    (s.writer = none → exec (.interruptEvent .wevt) s =
      .next { s with writer := some { holder := .wevt, rest := f.bytes }, out := .none }) ∧
    (∀ w, s.writer = some w → w.holder ≠ .wevt → exec (.interruptEvent .wevt) s = .next { s with out := .held }) ∧
    (∀ b bs, s.writer = some { holder := .wevt, rest := b :: bs } → exec (.interruptEvent .wevt) s =
      .next { s with tx := s.tx ++ [b], writer := some { holder := .wevt, rest := bs }, out := .none }) ∧
    (s.writer = some { holder := .wevt, rest := [] } → exec (.interruptEvent .wevt) s =
      .next { s with writer := none, wevt := .idle, out := .none })

/-- R171: the InterruptEvent frame is always 6 bytes: 07 03 00 PL PH E. -/
def Obligations.EventFrameIsSixBytes : Prop :=
  ∀ (pin : Half) (rising : Bool), (eventFrame pin rising).bytes =
    [0x07, 0x03, 0x00, BitVec.ofNat 8 (pin.toNat % 256), BitVec.ofNat 8 (pin.toNat / 256),
      if rising then 0x01 else 0x02]

/-- R161: what the dispatcher's loop does next, by where it stands: `get`, the arm of the command it holds (for each of the nine
tags), the sending of its answer, the release. The division into these steps is the model's (log entry 17). A tag row presented
to the dispatcher that is not the arm of the command it holds stops with outOfLoop, also the model's (log entry 13). -/
def Obligations.DispatcherRunsItsLoop : Prop :=
  (∀ (s : State) (h : Nat) (cmd : Byte), dispatcherHolds s h cmd → ∀ r ∈ tagRows .wdisp, cmd ≠ r.2 →
    exec r.1 s = .fault .outOfLoop) ∧
  ∀ (s : State) (rest : List Txn), s.trace = { port := .run, ctx := .wdisp, data := 0 } :: rest →
    ∀ s' : State, s' = { s with trace := rest } →
    (s.wdisp = .idle → s.pq.count s.cfg.pqCap ≠ 0 → step s = exec (.pqGet .wdisp) s') ∧
    (∀ h, s.wdisp = .holding h → ∀ r ∈ tagRows .wdisp, s.command h = r.2 → step s = exec r.1 s') ∧
    (∀ h f, s.wdisp = .answering h f → s.lockBusy .wdisp = false → ∀ r ∈ answerRows, f.tag = r.2 →
      step s = exec r.1 s') ∧
    (∀ h, s.wdisp = .answered h → step s = exec (.poolRelease .wdisp h) s')

/-- R170: what the event worker's loop does next, by where it stands: `get`, decode, the sending of its frame. The division
into these steps is the model's (log entry 17). -/
def Obligations.EventWorkerRunsItsLoop : Prop :=
  ∀ (s : State) (rest : List Txn), s.trace = { port := .run, ctx := .wevt, data := 0 } :: rest →
    ∀ s' : State, s' = { s with trace := rest } →
    (s.wevt = .idle → s.evq.count s.cfg.eqCap ≠ 0 → step s = exec (.eqGet .wevt) s') ∧
    (∀ ev, s.wevt = .holding ev →
      step s = exec (.eventWord .wevt (ev.getLsbD 16) (ev.extractLsb' 0 16)) s') ∧
    (∀ f, s.wevt = .sending f → s.lockBusy .wevt = false → step s = exec (.interruptEvent .wevt) s')

/-! ## The step, decoding, invariants -/

/-- R143, R150: when the next transaction of the trace decodes to a well-formed operation that is enabled, the step is that
operation's effect, with the transaction taken off the trace. That the order of the transactions is a list in the state is
the model's (log entry 4). -/
def Obligations.StepRunsTheDecodedOperation : Prop :=
  ∀ (s : State) (t : Txn) (rest : List Txn) (i : Instr), s.trace = t :: rest → decode s.cfg s.ps t = .ok i →
    wellFormed s.cfg i = true → waits i s = false → step s = exec i { s with trace := rest }

/-- R97, R144, R151: a worker held at the head of the trace makes no step: the step is the first enabled transaction of
another context, and the held context's own transactions stay pending in their order; with no other, nothing happens. That
the order of the transactions is a list in the state is the model's (log entry 4). -/
def Obligations.HeldWorkerMakesNoStep : Prop :=
  ∀ (s : State) (t : Txn) (g : Instr) (mine : List Txn), fetch s t = .ok g → waits g s = true →
    (∀ u ∈ mine, u.ctx = t.ctx) →
    (s.trace = t :: mine → step s = .next s) ∧
    ∀ (u : Txn) (later : List Txn) (i : Instr), s.trace = t :: (mine ++ u :: later) → u.ctx ≠ t.ctx →
      fetch s u = .ok i → waits i s = false → step s = exec i { s with trace := t :: (mine ++ later) }

/-- R21: no operation writes the parameters. A transaction is taken from the trace at most once, and none is added; that the
trace is a list in the state is the model's (log entry 4). -/
def Obligations.StepKeepsParametersAndOrder : Prop :=
  ∀ s t : State, step s = .next t → t.cfg = s.cfg ∧ t.trace.Sublist s.trace ∧ s.trace.length ≤ t.trace.length + 1

/-- spec/30_encoding.md: every well-formed operation is read back from its own transaction, with every operand, in the parser
state of its row. The packing of a transaction's operands into one number is the model's (log entry 3). -/
def Obligations.DecodeOfEncode : Prop :=
  ∀ (p : Params) (i : Instr), wellFormed p i = true → decode p (position i) (encode i) = .ok i

/-- spec/30_encoding.md: the decoder yields only well-formed operations. -/
def Obligations.DecodedIsWellFormed : Prop :=
  ∀ (p : Params) (ps : ParserState) (t : Txn) (i : Instr), decode p ps t = .ok i → wellFormed p i = true

/-- R63, R69, R131: some transactions written out from the spec's encodings decode to what they stand for. A word with a bit of
31..17 set is refused: R77 says they are 0, and the refusal is deduced (log entry 24). -/
def Obligations.SampleTransactionsDecode : Prop :=
  decode Params.default .readCommand { port := .rx, ctx := .irx, data := 0x01 } = .ok (.spiSetup .irx) ∧
  decode Params.default .readLenHigh { port := .rx, ctx := .irx, data := 0x01 } = .ok (.rxReadLenHigh 0x01) ∧
  decode Params.default .readCommand { port := .rx, ctx := .irx, data := 0x0B } = .ok (.invalidTag0A .irx 1) ∧
  decode Params.default .readCommand { port := .edge, ctx := .igpio, data := 0x1FFFF } = .ok (.edge .igpio 0xFFFF true) ∧
  decode Params.default .readCommand { port := .word, ctx := .wevt, data := 0x20000 } = .error .reservedWordBits

/-- spec/10_state.md (R10, R36, R40): the shape of the state at boot, for any parameters within their constraints. -/
def Obligations.BootHasShape : Prop := ∀ p : Params, p.ok → Shape (State.boot p)

/-- spec/10_state.md (R10, R36, R40): every step keeps the array sizes, the pointer ranges, the handle widths and the canonical
form of the buffer space, whatever the trace holds. -/
def Obligations.StepKeepsShape : Prop := ∀ s t : State, Shape s → step s = .next t → Shape t

/-- spec/10_state.md section 9: the invariants hold at boot. -/
def Obligations.BootHasBlockInvariants : Prop := ∀ p : Params, p.ok → BlockInv (State.boot p)

/-- spec/10_state.md section 9 (R30 to R37): every step over transactions at the ports keeps the invariants: one buffer in
construction at most, the ownership partition, well-formed packets and event words. -/
def Obligations.StepKeepsBlockInvariants : Prop :=
  ∀ s t : State, BlockInv s → PortsOnly s → step s = .next t → BlockInv t ∧ PortsOnly t

/-- R173: every step keeps the outbound stream, with the unsent rest of the frame whose sender holds the lock, a concatenation of
whole frames, each with a payload that R172 admits (or the 3 bytes of an InterruptEvent, R171, where `MAX_PAYLOAD` is less)
and its length bytes count; for this, what the workers compose fits too, before the step and after it. The lock with its unsent rest is the model's (log entry 17), and so is that at boot nothing is sent (log
entry 16). -/
def Obligations.OutboundIsWholeFrames : Prop :=
  (∀ p : Params, ComposedFit (State.boot p) ∧ WholeFrames (State.boot p)) ∧
  ∀ s t : State, s.cfg.ok → ComposedFit s → WholeFrames s → step s = .next t → ComposedFit t ∧ WholeFrames t
end

