-- ==== Sys2Proof/Laws/State.lean ====
section
/-! SUPPORT. One lemma per field per named update of State, so that no later proof unfolds a record update. -/

namespace Sys2Proof.Machine

variable (s : State)

@[simp] theorem State.drop_cfg (r : DropReason) : (s.drop r).cfg = s.cfg := rfl
@[simp] theorem State.drop_ps (r : DropReason) : (s.drop r).ps = s.ps := rfl
@[simp] theorem State.drop_held (r : DropReason) : (s.drop r).held = s.held := rfl
@[simp] theorem State.drop_cur (r : DropReason) : (s.drop r).cur = s.cur := rfl
@[simp] theorem State.drop_cnt (r : DropReason) : (s.drop r).cnt = s.cnt := rfl
@[simp] theorem State.drop_mem (r : DropReason) : (s.drop r).mem = s.mem := rfl
@[simp] theorem State.drop_free (r : DropReason) : (s.drop r).free = s.free := rfl
@[simp] theorem State.drop_pq (r : DropReason) : (s.drop r).pq = s.pq := rfl
@[simp] theorem State.drop_evq (r : DropReason) : (s.drop r).evq = s.evq := rfl
@[simp] theorem State.drop_own (r : DropReason) : (s.drop r).own = s.own := rfl
@[simp] theorem State.drop_log (r : DropReason) : (s.drop r).log = s.log ++ [r] := rfl
@[simp] theorem State.drop_wdisp (r : DropReason) : (s.drop r).wdisp = s.wdisp := rfl
@[simp] theorem State.drop_wevt (r : DropReason) : (s.drop r).wevt = s.wevt := rfl
@[simp] theorem State.drop_writer (r : DropReason) : (s.drop r).writer = s.writer := rfl
@[simp] theorem State.drop_tx (r : DropReason) : (s.drop r).tx = s.tx := rfl
@[simp] theorem State.drop_spiPins (r : DropReason) : (s.drop r).spiPins = s.spiPins := rfl
@[simp] theorem State.drop_gpioPins (r : DropReason) : (s.drop r).gpioPins = s.gpioPins := rfl
@[simp] theorem State.drop_calls (r : DropReason) : (s.drop r).calls = s.calls := rfl
@[simp] theorem State.drop_replies (r : DropReason) : (s.drop r).replies = s.replies := rfl
@[simp] theorem State.drop_allocChoice (r : DropReason) : (s.drop r).allocChoice = s.allocChoice := rfl
@[simp] theorem State.drop_trace (r : DropReason) : (s.drop r).trace = s.trace := rfl
@[simp] theorem State.drop_out (r : DropReason) : (s.drop r).out = s.out := rfl
@[simp] theorem State.drop_epoch (r : DropReason) : (s.drop r).epoch = s.epoch := rfl
@[simp] theorem State.drop_stores (r : DropReason) : (s.drop r).stores = s.stores := rfl

@[simp] theorem State.parserReset_cfg : s.parserReset.cfg = s.cfg := rfl
@[simp] theorem State.parserReset_ps : s.parserReset.ps = .readCommand := rfl
@[simp] theorem State.parserReset_held : s.parserReset.held = false := rfl
@[simp] theorem State.parserReset_cur : s.parserReset.cur = s.cur := rfl
@[simp] theorem State.parserReset_cnt : s.parserReset.cnt = 0 := rfl
@[simp] theorem State.parserReset_mem : s.parserReset.mem = s.mem := rfl
@[simp] theorem State.parserReset_free : s.parserReset.free = s.free := rfl
@[simp] theorem State.parserReset_pq : s.parserReset.pq = s.pq := rfl
@[simp] theorem State.parserReset_evq : s.parserReset.evq = s.evq := rfl
@[simp] theorem State.parserReset_own : s.parserReset.own = s.own := rfl
@[simp] theorem State.parserReset_log : s.parserReset.log = s.log := rfl
@[simp] theorem State.parserReset_wdisp : s.parserReset.wdisp = s.wdisp := rfl
@[simp] theorem State.parserReset_wevt : s.parserReset.wevt = s.wevt := rfl
@[simp] theorem State.parserReset_writer : s.parserReset.writer = s.writer := rfl
@[simp] theorem State.parserReset_tx : s.parserReset.tx = s.tx := rfl
@[simp] theorem State.parserReset_spiPins : s.parserReset.spiPins = s.spiPins := rfl
@[simp] theorem State.parserReset_gpioPins : s.parserReset.gpioPins = s.gpioPins := rfl
@[simp] theorem State.parserReset_calls : s.parserReset.calls = s.calls := rfl
@[simp] theorem State.parserReset_replies : s.parserReset.replies = s.replies := rfl
@[simp] theorem State.parserReset_allocChoice : s.parserReset.allocChoice = s.allocChoice := rfl
@[simp] theorem State.parserReset_trace : s.parserReset.trace = s.trace := rfl
@[simp] theorem State.parserReset_out : s.parserReset.out = s.out := rfl
@[simp] theorem State.parserReset_epoch : s.parserReset.epoch = s.epoch := rfl
@[simp] theorem State.parserReset_stores : s.parserReset.stores = s.stores := rfl

@[simp] theorem State.takeBuffer_cfg (h : Nat) : (s.takeBuffer h).cfg = s.cfg := rfl
@[simp] theorem State.takeBuffer_ps (h : Nat) : (s.takeBuffer h).ps = s.ps := rfl
@[simp] theorem State.takeBuffer_held (h : Nat) : (s.takeBuffer h).held = s.held := rfl
@[simp] theorem State.takeBuffer_cur (h : Nat) : (s.takeBuffer h).cur = s.cur := rfl
@[simp] theorem State.takeBuffer_cnt (h : Nat) : (s.takeBuffer h).cnt = s.cnt := rfl
@[simp] theorem State.takeBuffer_mem (h : Nat) : (s.takeBuffer h).mem = s.mem := rfl
@[simp] theorem State.takeBuffer_free (h : Nat) : (s.takeBuffer h).free = s.free.set h false := rfl
@[simp] theorem State.takeBuffer_pq (h : Nat) : (s.takeBuffer h).pq = s.pq := rfl
@[simp] theorem State.takeBuffer_evq (h : Nat) : (s.takeBuffer h).evq = s.evq := rfl
@[simp] theorem State.takeBuffer_own (h : Nat) : (s.takeBuffer h).own = s.own.set h .parser := rfl
@[simp] theorem State.takeBuffer_log (h : Nat) : (s.takeBuffer h).log = s.log := rfl
@[simp] theorem State.takeBuffer_wdisp (h : Nat) : (s.takeBuffer h).wdisp = s.wdisp := rfl
@[simp] theorem State.takeBuffer_wevt (h : Nat) : (s.takeBuffer h).wevt = s.wevt := rfl
@[simp] theorem State.takeBuffer_writer (h : Nat) : (s.takeBuffer h).writer = s.writer := rfl
@[simp] theorem State.takeBuffer_tx (h : Nat) : (s.takeBuffer h).tx = s.tx := rfl
@[simp] theorem State.takeBuffer_spiPins (h : Nat) : (s.takeBuffer h).spiPins = s.spiPins := rfl
@[simp] theorem State.takeBuffer_gpioPins (h : Nat) : (s.takeBuffer h).gpioPins = s.gpioPins := rfl
@[simp] theorem State.takeBuffer_calls (h : Nat) : (s.takeBuffer h).calls = s.calls := rfl
@[simp] theorem State.takeBuffer_replies (h : Nat) : (s.takeBuffer h).replies = s.replies := rfl
@[simp] theorem State.takeBuffer_allocChoice (h : Nat) : (s.takeBuffer h).allocChoice = s.allocChoice.tail := rfl
@[simp] theorem State.takeBuffer_trace (h : Nat) : (s.takeBuffer h).trace = s.trace := rfl
@[simp] theorem State.takeBuffer_out (h : Nat) : (s.takeBuffer h).out = s.out := rfl
@[simp] theorem State.takeBuffer_epoch (h : Nat) : (s.takeBuffer h).epoch = s.epoch := rfl
@[simp] theorem State.takeBuffer_stores (h : Nat) : (s.takeBuffer h).stores = s.stores := rfl

@[simp] theorem State.giveBack_cfg (h : Nat) : (s.giveBack h).cfg = s.cfg := rfl
@[simp] theorem State.giveBack_ps (h : Nat) : (s.giveBack h).ps = s.ps := rfl
@[simp] theorem State.giveBack_held (h : Nat) : (s.giveBack h).held = s.held := rfl
@[simp] theorem State.giveBack_cur (h : Nat) : (s.giveBack h).cur = s.cur := rfl
@[simp] theorem State.giveBack_cnt (h : Nat) : (s.giveBack h).cnt = s.cnt := rfl
@[simp] theorem State.giveBack_mem (h : Nat) : (s.giveBack h).mem = s.mem := rfl
@[simp] theorem State.giveBack_free (h : Nat) : (s.giveBack h).free = s.free.set h true := rfl
@[simp] theorem State.giveBack_pq (h : Nat) : (s.giveBack h).pq = s.pq := rfl
@[simp] theorem State.giveBack_evq (h : Nat) : (s.giveBack h).evq = s.evq := rfl
@[simp] theorem State.giveBack_own (h : Nat) : (s.giveBack h).own = s.own.set h .free := rfl
@[simp] theorem State.giveBack_log (h : Nat) : (s.giveBack h).log = s.log := rfl
@[simp] theorem State.giveBack_wdisp (h : Nat) : (s.giveBack h).wdisp = s.wdisp := rfl
@[simp] theorem State.giveBack_wevt (h : Nat) : (s.giveBack h).wevt = s.wevt := rfl
@[simp] theorem State.giveBack_writer (h : Nat) : (s.giveBack h).writer = s.writer := rfl
@[simp] theorem State.giveBack_tx (h : Nat) : (s.giveBack h).tx = s.tx := rfl
@[simp] theorem State.giveBack_spiPins (h : Nat) : (s.giveBack h).spiPins = s.spiPins := rfl
@[simp] theorem State.giveBack_gpioPins (h : Nat) : (s.giveBack h).gpioPins = s.gpioPins := rfl
@[simp] theorem State.giveBack_calls (h : Nat) : (s.giveBack h).calls = s.calls := rfl
@[simp] theorem State.giveBack_replies (h : Nat) : (s.giveBack h).replies = s.replies := rfl
@[simp] theorem State.giveBack_allocChoice (h : Nat) : (s.giveBack h).allocChoice = s.allocChoice := rfl
@[simp] theorem State.giveBack_trace (h : Nat) : (s.giveBack h).trace = s.trace := rfl
@[simp] theorem State.giveBack_out (h : Nat) : (s.giveBack h).out = s.out := rfl
@[simp] theorem State.giveBack_epoch (h : Nat) : (s.giveBack h).epoch = s.epoch := rfl
@[simp] theorem State.giveBack_stores (h : Nat) : (s.giveBack h).stores = s.stores := rfl

@[simp] theorem State.setByte_cfg (a : Nat) (v : Byte) : (s.setByte a v).cfg = s.cfg := rfl
@[simp] theorem State.setByte_ps (a : Nat) (v : Byte) : (s.setByte a v).ps = s.ps := rfl
@[simp] theorem State.setByte_held (a : Nat) (v : Byte) : (s.setByte a v).held = s.held := rfl
@[simp] theorem State.setByte_cur (a : Nat) (v : Byte) : (s.setByte a v).cur = s.cur := rfl
@[simp] theorem State.setByte_cnt (a : Nat) (v : Byte) : (s.setByte a v).cnt = s.cnt := rfl
@[simp] theorem State.setByte_mem (a : Nat) (v : Byte) : (s.setByte a v).mem = Memory.store s.mem a v := rfl
@[simp] theorem State.setByte_free (a : Nat) (v : Byte) : (s.setByte a v).free = s.free := rfl
@[simp] theorem State.setByte_pq (a : Nat) (v : Byte) : (s.setByte a v).pq = s.pq := rfl
@[simp] theorem State.setByte_evq (a : Nat) (v : Byte) : (s.setByte a v).evq = s.evq := rfl
@[simp] theorem State.setByte_own (a : Nat) (v : Byte) : (s.setByte a v).own = s.own := rfl
@[simp] theorem State.setByte_log (a : Nat) (v : Byte) : (s.setByte a v).log = s.log := rfl
@[simp] theorem State.setByte_wdisp (a : Nat) (v : Byte) : (s.setByte a v).wdisp = s.wdisp := rfl
@[simp] theorem State.setByte_wevt (a : Nat) (v : Byte) : (s.setByte a v).wevt = s.wevt := rfl
@[simp] theorem State.setByte_writer (a : Nat) (v : Byte) : (s.setByte a v).writer = s.writer := rfl
@[simp] theorem State.setByte_tx (a : Nat) (v : Byte) : (s.setByte a v).tx = s.tx := rfl
@[simp] theorem State.setByte_spiPins (a : Nat) (v : Byte) : (s.setByte a v).spiPins = s.spiPins := rfl
@[simp] theorem State.setByte_gpioPins (a : Nat) (v : Byte) : (s.setByte a v).gpioPins = s.gpioPins := rfl
@[simp] theorem State.setByte_calls (a : Nat) (v : Byte) : (s.setByte a v).calls = s.calls := rfl
@[simp] theorem State.setByte_replies (a : Nat) (v : Byte) : (s.setByte a v).replies = s.replies := rfl
@[simp] theorem State.setByte_allocChoice (a : Nat) (v : Byte) : (s.setByte a v).allocChoice = s.allocChoice := rfl
@[simp] theorem State.setByte_trace (a : Nat) (v : Byte) : (s.setByte a v).trace = s.trace := rfl
@[simp] theorem State.setByte_out (a : Nat) (v : Byte) : (s.setByte a v).out = s.out := rfl
@[simp] theorem State.setByte_epoch (a : Nat) (v : Byte) : (s.setByte a v).epoch = s.epoch := rfl
@[simp] theorem State.setByte_stores (a : Nat) (v : Byte) : (s.setByte a v).stores = s.stores := rfl

@[simp] theorem State.setCommand_cfg (h : Nat) (b : Byte) : (s.setCommand h b).cfg = s.cfg := rfl
@[simp] theorem State.setCommand_ps (h : Nat) (b : Byte) : (s.setCommand h b).ps = s.ps := rfl
@[simp] theorem State.setCommand_held (h : Nat) (b : Byte) : (s.setCommand h b).held = s.held := rfl
@[simp] theorem State.setCommand_cur (h : Nat) (b : Byte) : (s.setCommand h b).cur = s.cur := rfl
@[simp] theorem State.setCommand_cnt (h : Nat) (b : Byte) : (s.setCommand h b).cnt = s.cnt := rfl
@[simp] theorem State.setCommand_mem (h : Nat) (b : Byte) : (s.setCommand h b).mem = Memory.store s.mem (bufAddr s.cfg h 0) b := rfl
@[simp] theorem State.setCommand_free (h : Nat) (b : Byte) : (s.setCommand h b).free = s.free := rfl
@[simp] theorem State.setCommand_pq (h : Nat) (b : Byte) : (s.setCommand h b).pq = s.pq := rfl
@[simp] theorem State.setCommand_evq (h : Nat) (b : Byte) : (s.setCommand h b).evq = s.evq := rfl
@[simp] theorem State.setCommand_own (h : Nat) (b : Byte) : (s.setCommand h b).own = s.own := rfl
@[simp] theorem State.setCommand_log (h : Nat) (b : Byte) : (s.setCommand h b).log = s.log := rfl
@[simp] theorem State.setCommand_wdisp (h : Nat) (b : Byte) : (s.setCommand h b).wdisp = s.wdisp := rfl
@[simp] theorem State.setCommand_wevt (h : Nat) (b : Byte) : (s.setCommand h b).wevt = s.wevt := rfl
@[simp] theorem State.setCommand_writer (h : Nat) (b : Byte) : (s.setCommand h b).writer = s.writer := rfl
@[simp] theorem State.setCommand_tx (h : Nat) (b : Byte) : (s.setCommand h b).tx = s.tx := rfl
@[simp] theorem State.setCommand_spiPins (h : Nat) (b : Byte) : (s.setCommand h b).spiPins = s.spiPins := rfl
@[simp] theorem State.setCommand_gpioPins (h : Nat) (b : Byte) : (s.setCommand h b).gpioPins = s.gpioPins := rfl
@[simp] theorem State.setCommand_calls (h : Nat) (b : Byte) : (s.setCommand h b).calls = s.calls := rfl
@[simp] theorem State.setCommand_replies (h : Nat) (b : Byte) : (s.setCommand h b).replies = s.replies := rfl
@[simp] theorem State.setCommand_allocChoice (h : Nat) (b : Byte) : (s.setCommand h b).allocChoice = s.allocChoice := rfl
@[simp] theorem State.setCommand_trace (h : Nat) (b : Byte) : (s.setCommand h b).trace = s.trace := rfl
@[simp] theorem State.setCommand_out (h : Nat) (b : Byte) : (s.setCommand h b).out = s.out := rfl
@[simp] theorem State.setCommand_epoch (h : Nat) (b : Byte) : (s.setCommand h b).epoch = s.epoch := rfl
@[simp] theorem State.setCommand_stores (h : Nat) (b : Byte) : (s.setCommand h b).stores = s.stores := rfl

@[simp] theorem State.setLength_cfg (h : Nat) (l : Half) : (s.setLength h l).cfg = s.cfg := rfl
@[simp] theorem State.setLength_ps (h : Nat) (l : Half) : (s.setLength h l).ps = s.ps := rfl
@[simp] theorem State.setLength_held (h : Nat) (l : Half) : (s.setLength h l).held = s.held := rfl
@[simp] theorem State.setLength_cur (h : Nat) (l : Half) : (s.setLength h l).cur = s.cur := rfl
@[simp] theorem State.setLength_cnt (h : Nat) (l : Half) : (s.setLength h l).cnt = s.cnt := rfl
@[simp] theorem State.setLength_free (h : Nat) (l : Half) : (s.setLength h l).free = s.free := rfl
@[simp] theorem State.setLength_pq (h : Nat) (l : Half) : (s.setLength h l).pq = s.pq := rfl
@[simp] theorem State.setLength_evq (h : Nat) (l : Half) : (s.setLength h l).evq = s.evq := rfl
@[simp] theorem State.setLength_own (h : Nat) (l : Half) : (s.setLength h l).own = s.own := rfl
@[simp] theorem State.setLength_log (h : Nat) (l : Half) : (s.setLength h l).log = s.log := rfl
@[simp] theorem State.setLength_wdisp (h : Nat) (l : Half) : (s.setLength h l).wdisp = s.wdisp := rfl
@[simp] theorem State.setLength_wevt (h : Nat) (l : Half) : (s.setLength h l).wevt = s.wevt := rfl
@[simp] theorem State.setLength_writer (h : Nat) (l : Half) : (s.setLength h l).writer = s.writer := rfl
@[simp] theorem State.setLength_tx (h : Nat) (l : Half) : (s.setLength h l).tx = s.tx := rfl
@[simp] theorem State.setLength_spiPins (h : Nat) (l : Half) : (s.setLength h l).spiPins = s.spiPins := rfl
@[simp] theorem State.setLength_gpioPins (h : Nat) (l : Half) : (s.setLength h l).gpioPins = s.gpioPins := rfl
@[simp] theorem State.setLength_calls (h : Nat) (l : Half) : (s.setLength h l).calls = s.calls := rfl
@[simp] theorem State.setLength_replies (h : Nat) (l : Half) : (s.setLength h l).replies = s.replies := rfl
@[simp] theorem State.setLength_allocChoice (h : Nat) (l : Half) : (s.setLength h l).allocChoice = s.allocChoice := rfl
@[simp] theorem State.setLength_trace (h : Nat) (l : Half) : (s.setLength h l).trace = s.trace := rfl
@[simp] theorem State.setLength_out (h : Nat) (l : Half) : (s.setLength h l).out = s.out := rfl
@[simp] theorem State.setLength_epoch (h : Nat) (l : Half) : (s.setLength h l).epoch = s.epoch := rfl
@[simp] theorem State.setLength_stores (h : Nat) (l : Half) : (s.setLength h l).stores = s.stores := rfl

@[simp] theorem State.storePayload_cfg (h : Nat) (off : Nat) (b : Byte) : (s.storePayload h off b).cfg = s.cfg := rfl
@[simp] theorem State.storePayload_ps (h : Nat) (off : Nat) (b : Byte) : (s.storePayload h off b).ps = s.ps := rfl
@[simp] theorem State.storePayload_held (h : Nat) (off : Nat) (b : Byte) : (s.storePayload h off b).held = s.held := rfl
@[simp] theorem State.storePayload_cur (h : Nat) (off : Nat) (b : Byte) : (s.storePayload h off b).cur = s.cur := rfl
@[simp] theorem State.storePayload_cnt (h : Nat) (off : Nat) (b : Byte) : (s.storePayload h off b).cnt = s.cnt := rfl
@[simp] theorem State.storePayload_mem (h : Nat) (off : Nat) (b : Byte) : (s.storePayload h off b).mem = Memory.store s.mem (payloadAddr s.cfg h off) b := rfl
@[simp] theorem State.storePayload_free (h : Nat) (off : Nat) (b : Byte) : (s.storePayload h off b).free = s.free := rfl
@[simp] theorem State.storePayload_pq (h : Nat) (off : Nat) (b : Byte) : (s.storePayload h off b).pq = s.pq := rfl
@[simp] theorem State.storePayload_evq (h : Nat) (off : Nat) (b : Byte) : (s.storePayload h off b).evq = s.evq := rfl
@[simp] theorem State.storePayload_own (h : Nat) (off : Nat) (b : Byte) : (s.storePayload h off b).own = s.own := rfl
@[simp] theorem State.storePayload_log (h : Nat) (off : Nat) (b : Byte) : (s.storePayload h off b).log = s.log := rfl
@[simp] theorem State.storePayload_wdisp (h : Nat) (off : Nat) (b : Byte) : (s.storePayload h off b).wdisp = s.wdisp := rfl
@[simp] theorem State.storePayload_wevt (h : Nat) (off : Nat) (b : Byte) : (s.storePayload h off b).wevt = s.wevt := rfl
@[simp] theorem State.storePayload_writer (h : Nat) (off : Nat) (b : Byte) : (s.storePayload h off b).writer = s.writer := rfl
@[simp] theorem State.storePayload_tx (h : Nat) (off : Nat) (b : Byte) : (s.storePayload h off b).tx = s.tx := rfl
@[simp] theorem State.storePayload_spiPins (h : Nat) (off : Nat) (b : Byte) : (s.storePayload h off b).spiPins = s.spiPins := rfl
@[simp] theorem State.storePayload_gpioPins (h : Nat) (off : Nat) (b : Byte) : (s.storePayload h off b).gpioPins = s.gpioPins := rfl
@[simp] theorem State.storePayload_calls (h : Nat) (off : Nat) (b : Byte) : (s.storePayload h off b).calls = s.calls := rfl
@[simp] theorem State.storePayload_replies (h : Nat) (off : Nat) (b : Byte) : (s.storePayload h off b).replies = s.replies := rfl
@[simp] theorem State.storePayload_allocChoice (h : Nat) (off : Nat) (b : Byte) : (s.storePayload h off b).allocChoice = s.allocChoice := rfl
@[simp] theorem State.storePayload_trace (h : Nat) (off : Nat) (b : Byte) : (s.storePayload h off b).trace = s.trace := rfl
@[simp] theorem State.storePayload_out (h : Nat) (off : Nat) (b : Byte) : (s.storePayload h off b).out = s.out := rfl
@[simp] theorem State.storePayload_epoch (h : Nat) (off : Nat) (b : Byte) : (s.storePayload h off b).epoch = s.epoch := rfl
@[simp] theorem State.storePayload_stores (h : Nat) (off : Nat) (b : Byte) : (s.storePayload h off b).stores = s.stores + 1 := rfl

@[simp] theorem State.called_cfg (c : AdapterCall) : (s.called c).cfg = s.cfg := rfl
@[simp] theorem State.called_ps (c : AdapterCall) : (s.called c).ps = s.ps := rfl
@[simp] theorem State.called_held (c : AdapterCall) : (s.called c).held = s.held := rfl
@[simp] theorem State.called_cur (c : AdapterCall) : (s.called c).cur = s.cur := rfl
@[simp] theorem State.called_cnt (c : AdapterCall) : (s.called c).cnt = s.cnt := rfl
@[simp] theorem State.called_mem (c : AdapterCall) : (s.called c).mem = s.mem := rfl
@[simp] theorem State.called_free (c : AdapterCall) : (s.called c).free = s.free := rfl
@[simp] theorem State.called_pq (c : AdapterCall) : (s.called c).pq = s.pq := rfl
@[simp] theorem State.called_evq (c : AdapterCall) : (s.called c).evq = s.evq := rfl
@[simp] theorem State.called_own (c : AdapterCall) : (s.called c).own = s.own := rfl
@[simp] theorem State.called_log (c : AdapterCall) : (s.called c).log = s.log := rfl
@[simp] theorem State.called_wdisp (c : AdapterCall) : (s.called c).wdisp = s.wdisp := rfl
@[simp] theorem State.called_wevt (c : AdapterCall) : (s.called c).wevt = s.wevt := rfl
@[simp] theorem State.called_writer (c : AdapterCall) : (s.called c).writer = s.writer := rfl
@[simp] theorem State.called_tx (c : AdapterCall) : (s.called c).tx = s.tx := rfl
@[simp] theorem State.called_spiPins (c : AdapterCall) : (s.called c).spiPins = s.spiPins := rfl
@[simp] theorem State.called_gpioPins (c : AdapterCall) : (s.called c).gpioPins = s.gpioPins := rfl
@[simp] theorem State.called_calls (c : AdapterCall) : (s.called c).calls = s.calls ++ [c] := rfl
@[simp] theorem State.called_replies (c : AdapterCall) : (s.called c).replies = s.replies.tail := rfl
@[simp] theorem State.called_allocChoice (c : AdapterCall) : (s.called c).allocChoice = s.allocChoice := rfl
@[simp] theorem State.called_trace (c : AdapterCall) : (s.called c).trace = s.trace := rfl
@[simp] theorem State.called_out (c : AdapterCall) : (s.called c).out = s.out := rfl
@[simp] theorem State.called_epoch (c : AdapterCall) : (s.called c).epoch = s.epoch := rfl
@[simp] theorem State.called_stores (c : AdapterCall) : (s.called c).stores = s.stores := rfl

@[simp] theorem State.adaptersReset_cfg : s.adaptersReset.cfg = s.cfg := rfl
@[simp] theorem State.adaptersReset_ps : s.adaptersReset.ps = s.ps := rfl
@[simp] theorem State.adaptersReset_held : s.adaptersReset.held = s.held := rfl
@[simp] theorem State.adaptersReset_cur : s.adaptersReset.cur = s.cur := rfl
@[simp] theorem State.adaptersReset_cnt : s.adaptersReset.cnt = s.cnt := rfl
@[simp] theorem State.adaptersReset_mem : s.adaptersReset.mem = s.mem := rfl
@[simp] theorem State.adaptersReset_free : s.adaptersReset.free = s.free := rfl
@[simp] theorem State.adaptersReset_pq : s.adaptersReset.pq = s.pq := rfl
@[simp] theorem State.adaptersReset_evq : s.adaptersReset.evq = s.evq := rfl
@[simp] theorem State.adaptersReset_own : s.adaptersReset.own = s.own := rfl
@[simp] theorem State.adaptersReset_log : s.adaptersReset.log = s.log := rfl
@[simp] theorem State.adaptersReset_wdisp : s.adaptersReset.wdisp = s.wdisp := rfl
@[simp] theorem State.adaptersReset_wevt : s.adaptersReset.wevt = s.wevt := rfl
@[simp] theorem State.adaptersReset_writer : s.adaptersReset.writer = s.writer := rfl
@[simp] theorem State.adaptersReset_tx : s.adaptersReset.tx = s.tx := rfl
@[simp] theorem State.adaptersReset_spiPins : s.adaptersReset.spiPins = [] := rfl
@[simp] theorem State.adaptersReset_gpioPins : s.adaptersReset.gpioPins = [] := rfl
@[simp] theorem State.adaptersReset_calls : s.adaptersReset.calls = s.calls ++ [.spiReset, .gpioReset] := rfl
@[simp] theorem State.adaptersReset_replies : s.adaptersReset.replies = s.replies := rfl
@[simp] theorem State.adaptersReset_allocChoice : s.adaptersReset.allocChoice = s.allocChoice := rfl
@[simp] theorem State.adaptersReset_trace : s.adaptersReset.trace = s.trace := rfl
@[simp] theorem State.adaptersReset_out : s.adaptersReset.out = s.out := rfl
@[simp] theorem State.adaptersReset_epoch : s.adaptersReset.epoch = s.epoch := rfl
@[simp] theorem State.adaptersReset_stores : s.adaptersReset.stores = s.stores := rfl

@[simp] theorem State.compose_cfg (h : Nat) (f : Frame) : (s.compose h f).cfg = s.cfg := rfl
@[simp] theorem State.compose_ps (h : Nat) (f : Frame) : (s.compose h f).ps = s.ps := rfl
@[simp] theorem State.compose_held (h : Nat) (f : Frame) : (s.compose h f).held = s.held := rfl
@[simp] theorem State.compose_cur (h : Nat) (f : Frame) : (s.compose h f).cur = s.cur := rfl
@[simp] theorem State.compose_cnt (h : Nat) (f : Frame) : (s.compose h f).cnt = s.cnt := rfl
@[simp] theorem State.compose_mem (h : Nat) (f : Frame) : (s.compose h f).mem = s.mem := rfl
@[simp] theorem State.compose_free (h : Nat) (f : Frame) : (s.compose h f).free = s.free := rfl
@[simp] theorem State.compose_pq (h : Nat) (f : Frame) : (s.compose h f).pq = s.pq := rfl
@[simp] theorem State.compose_evq (h : Nat) (f : Frame) : (s.compose h f).evq = s.evq := rfl
@[simp] theorem State.compose_own (h : Nat) (f : Frame) : (s.compose h f).own = s.own := rfl
@[simp] theorem State.compose_log (h : Nat) (f : Frame) : (s.compose h f).log = s.log := rfl
@[simp] theorem State.compose_wdisp (h : Nat) (f : Frame) : (s.compose h f).wdisp = .answering h f := rfl
@[simp] theorem State.compose_wevt (h : Nat) (f : Frame) : (s.compose h f).wevt = s.wevt := rfl
@[simp] theorem State.compose_writer (h : Nat) (f : Frame) : (s.compose h f).writer = s.writer := rfl
@[simp] theorem State.compose_tx (h : Nat) (f : Frame) : (s.compose h f).tx = s.tx := rfl
@[simp] theorem State.compose_spiPins (h : Nat) (f : Frame) : (s.compose h f).spiPins = s.spiPins := rfl
@[simp] theorem State.compose_gpioPins (h : Nat) (f : Frame) : (s.compose h f).gpioPins = s.gpioPins := rfl
@[simp] theorem State.compose_calls (h : Nat) (f : Frame) : (s.compose h f).calls = s.calls := rfl
@[simp] theorem State.compose_replies (h : Nat) (f : Frame) : (s.compose h f).replies = s.replies := rfl
@[simp] theorem State.compose_allocChoice (h : Nat) (f : Frame) : (s.compose h f).allocChoice = s.allocChoice := rfl
@[simp] theorem State.compose_trace (h : Nat) (f : Frame) : (s.compose h f).trace = s.trace := rfl
@[simp] theorem State.compose_out (h : Nat) (f : Frame) : (s.compose h f).out = s.out := rfl
@[simp] theorem State.compose_epoch (h : Nat) (f : Frame) : (s.compose h f).epoch = s.epoch := rfl
@[simp] theorem State.compose_stores (h : Nat) (f : Frame) : (s.compose h f).stores = s.stores := rfl

@[simp] theorem State.blockReset_cfg : s.blockReset.cfg = s.cfg := rfl
@[simp] theorem State.blockReset_ps : s.blockReset.ps = .readCommand := rfl
@[simp] theorem State.blockReset_held : s.blockReset.held = false := rfl
@[simp] theorem State.blockReset_cur : s.blockReset.cur = Config.freeCur (s.epoch + 1) % 2 ^ s.cfg.handleW := rfl
@[simp] theorem State.blockReset_cnt : s.blockReset.cnt = 0 := rfl
@[simp] theorem State.blockReset_mem : s.blockReset.mem = [] := rfl
@[simp] theorem State.blockReset_free : s.blockReset.free = List.replicate s.cfg.nPackets true := rfl
@[simp] theorem State.blockReset_own : s.blockReset.own = List.replicate s.cfg.nPackets .free := rfl
@[simp] theorem State.blockReset_log : s.blockReset.log = [] := rfl
@[simp] theorem State.blockReset_wdisp : s.blockReset.wdisp = s.wdisp := rfl
@[simp] theorem State.blockReset_wevt : s.blockReset.wevt = s.wevt := rfl
@[simp] theorem State.blockReset_writer : s.blockReset.writer = s.writer := rfl
@[simp] theorem State.blockReset_tx : s.blockReset.tx = s.tx := rfl
@[simp] theorem State.blockReset_spiPins : s.blockReset.spiPins = s.spiPins := rfl
@[simp] theorem State.blockReset_gpioPins : s.blockReset.gpioPins = s.gpioPins := rfl
@[simp] theorem State.blockReset_calls : s.blockReset.calls = s.calls := rfl
@[simp] theorem State.blockReset_replies : s.blockReset.replies = s.replies := rfl
@[simp] theorem State.blockReset_allocChoice : s.blockReset.allocChoice = s.allocChoice := rfl
@[simp] theorem State.blockReset_trace : s.blockReset.trace = s.trace := rfl
@[simp] theorem State.blockReset_out : s.blockReset.out = s.out := rfl
@[simp] theorem State.blockReset_epoch : s.blockReset.epoch = s.epoch + 1 := rfl
@[simp] theorem State.blockReset_stores : s.blockReset.stores = s.stores := rfl

end Sys2Proof.Machine
end

