-- ==== Sys2Proof/Laws/Memory.lean ====
section
/-! SUPPORT. The laws of the buffer space: read after write, a write leaves every other byte alone, every write keeps the
canonical form; and where the bytes of a buffer lie. -/

namespace Sys2Proof.Machine

theorem Memory.lookup_store_same (m : List Host.Cell) (a : Nat) (v : Byte) :
    Memory.lookup (Memory.store m a v) a = some v := by
  induction m with
  | nil => simp [Memory.store, Memory.lookup]
  | cons c m ih =>
    obtain ⟨k, w⟩ := c
    simp only [Memory.store]
    split
    · simp [Memory.lookup]
    · split
      · simp [Memory.lookup]
      · rename_i h1 h2
        have : k ≠ a := fun h => h2 h.symm
        simp [Memory.lookup, this, ih]

theorem Memory.lookup_store_other (m : List Host.Cell) {a a' : Nat} (v : Byte) (h : a' ≠ a) :
    Memory.lookup (Memory.store m a v) a' = Memory.lookup m a' := by
  induction m with
  | nil => simp [Memory.store, Memory.lookup, h.symm]
  | cons c m ih =>
    obtain ⟨k, w⟩ := c
    simp only [Memory.store]
    split
    · simp [Memory.lookup, h.symm]
    · split
      · rename_i h1 h2
        subst h2
        simp [Memory.lookup, h.symm]
      · simp [Memory.lookup, ih]

/-- The addresses after a store: the old ones and the one stored to. -/
theorem Memory.mem_store {m : List Host.Cell} {a : Nat} {v : Byte} {e : Host.Cell}
    (h : e ∈ Memory.store m a v) : e = (a, v) ∨ e ∈ m := by
  induction m with
  | nil => simpa [Memory.store] using h
  | cons c m ih =>
    obtain ⟨k, w⟩ := c
    simp only [Memory.store] at h
    split at h
    · simpa using h
    · split at h
      · rcases List.mem_cons.1 h with h | h
        · exact .inl h
        · exact .inr (List.mem_cons_of_mem _ h)
      · rcases List.mem_cons.1 h with h | h
        · exact .inr (by simp [h])
        · exact (ih h).imp id (List.mem_cons_of_mem _)

/-- Every store keeps the canonical form. -/
theorem Memory.store_wf {m : List Host.Cell} (a : Nat) (v : Byte) (h : Memory.wf m) :
    Memory.wf (Memory.store m a v) := by
  induction m with
  | nil => simp [Memory.wf, Memory.store]
  | cons c m ih =>
    obtain ⟨k, w⟩ := c
    simp only [Memory.wf, List.map_cons, List.pairwise_cons] at h ih
    simp only [Memory.store]
    split
    · rename_i hlt
      simp only [Memory.wf, List.map_cons, List.pairwise_cons, List.mem_cons]
      refine ⟨?_, h⟩
      rintro x (rfl | hx)
      · exact hlt
      · exact lt_trans hlt (h.1 x hx)
    · split
      · rename_i _ heq
        subst heq
        simpa only [Memory.wf, List.map_cons, List.pairwise_cons] using h
      · rename_i h1 h2
        simp only [Memory.wf, List.map_cons, List.pairwise_cons]
        refine ⟨?_, ih h.2⟩
        intro x hx
        obtain ⟨e, he, rfl⟩ := List.mem_map.1 hx
        rcases Memory.mem_store he with rfl | he
        · show k < a
          omega
        · exact h.1 _ (List.mem_map_of_mem he)

theorem boot_memory_wf (p : Params) : Memory.wf (State.boot p).mem := by
  simp [Memory.wf, State.boot, State.afterReset]

/-! Reads after writes, byte by byte. -/

@[simp] theorem State.byteAt_setByte_same (s : State) (a : Nat) (v : Byte) : (s.setByte a v).byteAt a = v := by
  simp [State.byteAt, Memory.lookup_store_same]

theorem State.byteAt_setByte_other (s : State) {a a' : Nat} (v : Byte) (h : a' ≠ a) :
    (s.setByte a v).byteAt a' = s.byteAt a' := by
  simp [State.byteAt, Memory.lookup_store_other _ _ h]

/-- A read of the buffer space depends on the buffer space and the reset number alone. -/
theorem State.byteAt_congr {s t : State} (hm : t.mem = s.mem) (he : t.epoch = s.epoch) (a : Nat) :
    t.byteAt a = s.byteAt a := by
  simp [State.byteAt, hm, he]

/-- Two bytes of the buffer space lie apart where their buffers or their offsets differ. -/
theorem bufAddr_ne {p : Params} {h h' off off' : Nat} (ho : off < p.bufBytes) (ho' : off' < p.bufBytes)
    (hne : h ≠ h' ∨ off ≠ off') : bufAddr p h off ≠ bufAddr p h' off' := by
  intro heq
  have hd : (bufAddr p h off) / p.bufBytes = (bufAddr p h' off') / p.bufBytes := by rw [heq]
  have hpos : 0 < p.bufBytes := by simp [Params.bufBytes]
  simp only [bufAddr] at hd heq
  rw [Nat.add_comm, Nat.add_mul_div_right _ _ hpos, Nat.add_comm (h' * _), Nat.add_mul_div_right _ _ hpos,
    Nat.div_eq_of_lt ho, Nat.div_eq_of_lt ho'] at hd
  have hh : h = h' := by omega
  subst hh
  exact hne.elim (fun hn => hn rfl) (fun hn => hn (by omega))

/-- Every byte of an existing buffer lies in the buffer space. -/
theorem bufAddr_lt {p : Params} {h off : Nat} (hh : h < p.nPackets) (ho : off < p.bufBytes) :
    bufAddr p h off < p.bufSpace := by
  have : (h + 1) * p.bufBytes ≤ p.nPackets * p.bufBytes := Nat.mul_le_mul_right _ hh
  simp only [bufAddr, Params.bufSpace]
  calc h * p.bufBytes + off < h * p.bufBytes + p.bufBytes := by omega
    _ = (h + 1) * p.bufBytes := by ring
    _ ≤ _ := this

@[simp] theorem State.command_setCommand (s : State) (h : Nat) (b : Byte) :
    (s.setCommand h b).command h = b := by
  simp [State.command, State.setCommand]

/-- What a whole write of `length` leaves: the two bytes of the value, and every other byte as it was. -/
theorem State.byteAt_setLength (s : State) (h : Nat) (l : Half) (a : Nat) :
    (s.setLength h l).byteAt a =
      if a = bufAddr s.cfg h 2 then l.extractLsb' 8 8
      else if a = bufAddr s.cfg h 1 then l.extractLsb' 0 8
      else s.byteAt a := by
  simp only [State.setLength]
  split
  · next h2 => rw [h2]; exact State.byteAt_setByte_same _ _ _
  · next h2 =>
    rw [State.byteAt_setByte_other _ _ h2]
    split
    · next h1 => rw [h1]; exact State.byteAt_setByte_same _ _ _
    · next h1 => exact State.byteAt_setByte_other _ _ h1

@[simp] theorem State.length_setLength (s : State) (h : Nat) (l : Half) : (s.setLength h l).length h = l := by
  have h12 : bufAddr s.cfg h 1 ≠ bufAddr s.cfg h 2 := by simp [bufAddr]
  simp only [State.length, State.byteAt_setLength, State.setLength_cfg, if_true, if_neg h12]
  ext i hi
  simp only [BitVec.getElem_append, BitVec.getElem_extractLsb']
  split
  · simp [← BitVec.getLsbD_eq_getElem]
  · next hlt =>
    have : 8 + (i - 8) = i := by omega
    rw [this, BitVec.getLsbD_eq_getElem hi]

theorem State.byteAt_storePayload (s : State) (h : Nat) (off : Nat) (b : Byte) (a : Nat) :
    (s.storePayload h off b).byteAt a = if a = payloadAddr s.cfg h off then b else s.byteAt a := by
  have : (s.storePayload h off b).byteAt a = (s.setByte (payloadAddr s.cfg h off) b).byteAt a := rfl
  rw [this]
  split
  · next h => rw [h]; exact State.byteAt_setByte_same _ _ _
  · next h => exact State.byteAt_setByte_other _ _ h

end Sys2Proof.Machine
end

