-- ==== Sys2Proof/Laws/Ops.lean ====
section
/-! SUPPORT. For each shared operation one lemma that says once everything it can do. -/

namespace Sys2Proof.Machine

/-! Outcomes and the context check. -/

@[simp] theorem andThen_next (s : State) (k : State → Result) : andThen (.next s) k = k s := rfl
@[simp] theorem andThen_fault (f : Fault) (k : State → Result) : andThen (.fault f) k = .fault f := rfl
@[simp] theorem andThen_refused (e : Refusal) (k : State → Result) : andThen (.refused e) k = .refused e := rfl

theorem andThen_eq_next {r : Result} {k : State → Result} {t : State} (h : andThen r k = .next t) :
    ∃ s, r = .next s ∧ k s = .next t := by
  cases r with
  | next s => exact ⟨s, rfl, h⟩
  | fault f => cases h
  | refused e => cases h

theorem silent_eq_next {r : Result} {t : State} (h : silent r = .next t) :
    ∃ s, r = .next s ∧ t = { s with out := .none } := by
  obtain ⟨s, hr, hs⟩ := andThen_eq_next h
  exact ⟨s, hr, by simpa [answer] using hs.symm⟩

theorem onlyIn_eq_next {a c : Ctx} {r : Result} {t : State} (h : onlyIn a c r = .next t) : c = a ∧ r = .next t := by
  simp only [onlyIn] at h
  split at h
  · exact ⟨‹_›, h⟩
  · cases h

theorem readable_eq_next {h : Nat} {s t : State} {r : Result} (hn : readable h s r = .next t) :
    h < s.cfg.nPackets ∧ s.owner h = .worker ∧ r = .next t := by
  simp only [readable] at hn
  split at hn
  · cases hn
  · split at hn
    · cases hn
    · next h1 h2 => exact ⟨by omega, by simpa using h2, hn⟩

theorem withCur_eq_next {s t : State} {r : Result} (h : withCur s r = .next t) :
    s.cur < s.cfg.nPackets ∧ r = .next t := by
  simp only [withCur] at h
  split at h
  · exact ⟨‹_›, h⟩
  · cases h

/-! The pool. -/

theorem mem_freeSet {s : State} {h : Nat} : h ∈ s.freeSet ↔ h < s.cfg.nPackets ∧ s.isFree h = true := by
  simp [State.freeSet]

/-- POOL.ALLOC's choice is a free buffer, whatever `alloc_choice` wants. -/
theorem chooseFree_some {s : State} {h : Nat} (hc : s.chooseFree = some h) :
    h < s.cfg.nPackets ∧ s.isFree h = true := by
  rw [← mem_freeSet]
  simp only [State.chooseFree] at hc
  split at hc
  · cases hc
  · next l ls hl =>
    cases hw : s.allocChoice.head? with
    | none => simp [hw] at hc; simp [hl, hc]
    | some w =>
      simp only [hw, Option.filter, List.contains_iff_mem, Option.getD] at hc
      by_cases hm : w ∈ s.freeSet
      · simp [hm] at hc
        exact hc ▸ hm
      · simp [hm] at hc
        simp [hl, hc]

theorem chooseFree_none {s : State} : s.chooseFree = none ↔ s.exhausted = true := by
  simp only [State.chooseFree, State.exhausted]
  split
  · next h => simp [h]
  · next h => simp [h]

/-- Everything POOL.ALLOC can do. -/
theorem allocate_cases (s : State) :
    (s.exhausted = true ∧ s.allocate = (none, s)) ∨
    ∃ h, s.exhausted = false ∧ h < s.cfg.nPackets ∧ s.isFree h = true ∧ s.allocate = (some h, s.takeBuffer h) := by
  cases hc : s.chooseFree with
  | none => exact .inl ⟨chooseFree_none.1 hc, by simp [State.allocate, hc]⟩
  | some h =>
    have he : s.exhausted = false := by
      rw [Bool.eq_false_iff]
      intro hx
      rw [chooseFree_none.2 hx] at hc
      cases hc
    obtain ⟨hn, hf⟩ := chooseFree_some hc
    exact .inr ⟨h, he, hn, hf, by simp [State.allocate, hc]⟩

/-- Where POOL.RELEASE completes, and with what. -/
theorem release_eq_next {c : Owner} {h : Nat} {s t : State} :
    release c h s = .next t ↔
      h < s.cfg.nPackets ∧ s.isFree h = false ∧ s.owner h = c ∧ t = s.giveBack h := by
  simp only [release]
  split
  · simp; omega
  · split
    · next hf => simp [hf]
    · split
      · next hf ho => simp; intro _ _ h; exact absurd h ho
      · next hn hf ho =>
        simp only [Host.Outcome.next.injEq]
        constructor
        · rintro rfl
          exact ⟨by omega, by simpa using hf, by simpa using ho, rfl⟩
        · rintro ⟨_, _, _, rfl⟩; rfl

@[simp] theorem owner_takeBuffer {s : State} {h : Nat} (hl : h < s.own.length) (h' : Nat) :
    (s.takeBuffer h).owner h' = if h' = h then .parser else s.owner h' := by
  simp only [State.owner, State.takeBuffer_own, List.getD_eq_getElem?_getD, List.getElem?_set, eq_comm (a := h)]
  split <;> simp

@[simp] theorem isFree_takeBuffer {s : State} {h : Nat} (hl : h < s.free.length) (h' : Nat) :
    (s.takeBuffer h).isFree h' = if h' = h then false else s.isFree h' := by
  simp only [State.isFree, State.takeBuffer_free, List.getD_eq_getElem?_getD, List.getElem?_set, eq_comm (a := h)]
  split <;> simp

@[simp] theorem owner_giveBack {s : State} {h : Nat} (hl : h < s.own.length) (h' : Nat) :
    (s.giveBack h).owner h' = if h' = h then .free else s.owner h' := by
  simp only [State.owner, State.giveBack_own, List.getD_eq_getElem?_getD, List.getElem?_set, eq_comm (a := h)]
  split <;> simp

@[simp] theorem isFree_giveBack {s : State} {h : Nat} (hl : h < s.free.length) (h' : Nat) :
    (s.giveBack h).isFree h' = if h' = h then true else s.isFree h' := by
  simp only [State.isFree, State.giveBack_free, List.getD_eq_getElem?_getD, List.getElem?_set, eq_comm (a := h)]
  split <;> simp

/-! The queues. -/

/-- Everything a TRY_PUT on a queue can do. -/
theorem tryPut_cases {α : Type} (cap : Nat) (x : α) (q : Queue α) :
    (q.count cap = cap ∧ q.tryPut cap x = (false, q)) ∨
    (q.count cap ≠ cap ∧ q.tryPut cap x =
      (true, { q with slot := q.slot.set (q.wr % cap) x, wr := (q.wr + 1) % (2 * cap) })) := by
  by_cases h : q.count cap = cap
  · exact .inl ⟨h, by simp [Queue.tryPut, Queue.isFull, h]⟩
  · exact .inr ⟨h, by simp [Queue.tryPut, Queue.isFull, h]⟩

/-- Everything a GET on a queue can do. -/
theorem get_cases {α : Type} (cap : Nat) (q : Queue α) :
    (q.count cap = 0 ∧ q.get cap = none) ∨
    (q.count cap ≠ 0 ∧ q.get cap =
      (q.slot[q.rd % cap]?).map fun x => (x, { q with rd := (q.rd + 1) % (2 * cap) })) := by
  by_cases h : q.count cap = 0
  · exact .inl ⟨h, by simp [Queue.get, Queue.isEmpty, h]⟩
  · exact .inr ⟨h, by simp [Queue.get, Queue.isEmpty, h]⟩

theorem pqPut_cases (s : State) (x : Nat) :
    (s.pq.count s.cfg.pqCap = s.cfg.pqCap ∧ s.pqPut x = (false, s)) ∨
    (s.pq.count s.cfg.pqCap ≠ s.cfg.pqCap ∧ s.pqPut x = (true, { s with
      pq := { s.pq with slot := s.pq.slot.set (s.pq.wr % s.cfg.pqCap) x, wr := (s.pq.wr + 1) % (2 * s.cfg.pqCap) }
      own := s.own.set x .queued })) := by
  rcases tryPut_cases s.cfg.pqCap x s.pq with ⟨h, hp⟩ | ⟨h, hp⟩
  · exact .inl ⟨h, by simp [State.pqPut, hp]⟩
  · exact .inr ⟨h, by simp [State.pqPut, hp]⟩

theorem eqPut_cases (s : State) (ev : Word) :
    (s.evq.count s.cfg.eqCap = s.cfg.eqCap ∧ s.eqPut ev = (false, s)) ∨
    (s.evq.count s.cfg.eqCap ≠ s.cfg.eqCap ∧ s.eqPut ev = (true, { s with
      evq := { s.evq with
        slot := s.evq.slot.set (s.evq.wr % s.cfg.eqCap) ev, wr := (s.evq.wr + 1) % (2 * s.cfg.eqCap) } })) := by
  rcases tryPut_cases s.cfg.eqCap ev s.evq with ⟨h, hp⟩ | ⟨h, hp⟩
  · exact .inl ⟨h, by simp [State.eqPut, hp]⟩
  · exact .inr ⟨h, by simp [State.eqPut, hp]⟩

/-- What a completed PQ.GET leaves. -/
theorem pqTake_eq_some {s t : State} {x : Nat} (h : s.pqTake = some (x, t)) :
    s.pq.count s.cfg.pqCap ≠ 0 ∧ s.pq.slot[s.pq.rd % s.cfg.pqCap]? = some x ∧
    t = { s with pq := { s.pq with rd := (s.pq.rd + 1) % (2 * s.cfg.pqCap) }
                 own := s.own.set x .worker, wdisp := .holding x } := by
  rcases get_cases s.cfg.pqCap s.pq with ⟨_, hg⟩ | ⟨hc, hg⟩
  · simp [State.pqTake, hg] at h
  · cases hs : s.pq.slot[s.pq.rd % s.cfg.pqCap]? with
    | none => simp [State.pqTake, hg, hs] at h
    | some y =>
      simp [State.pqTake, hg, hs] at h
      obtain ⟨rfl, rfl⟩ := h
      exact ⟨hc, rfl, rfl⟩

/-- What a completed EQ.GET leaves. -/
theorem eqTake_eq_some {s t : State} {ev : Word} (h : s.eqTake = some (ev, t)) :
    s.evq.count s.cfg.eqCap ≠ 0 ∧ s.evq.slot[s.evq.rd % s.cfg.eqCap]? = some ev ∧
    t = { s with evq := { s.evq with rd := (s.evq.rd + 1) % (2 * s.cfg.eqCap) }, wevt := .holding ev } := by
  rcases get_cases s.cfg.eqCap s.evq with ⟨_, hg⟩ | ⟨hc, hg⟩
  · simp [State.eqTake, hg] at h
  · cases hs : s.evq.slot[s.evq.rd % s.cfg.eqCap]? with
    | none => simp [State.eqTake, hg, hs] at h
    | some y =>
      simp [State.eqTake, hg, hs] at h
      obtain ⟨rfl, rfl⟩ := h
      exact ⟨hc, rfl, rfl⟩

/-! The parser. -/

/-- Everything EMIT can do. -/
theorem emitPacket_cases (s : State) :
    (s.pq.count s.cfg.pqCap ≠ s.cfg.pqCap ∧ emitPacket s = .next (State.parserReset { s with
      pq := { s.pq with slot := s.pq.slot.set (s.pq.wr % s.cfg.pqCap) s.cur, wr := (s.pq.wr + 1) % (2 * s.cfg.pqCap) }
      own := s.own.set s.cur .queued })) ∨
    (s.pq.count s.cfg.pqCap = s.cfg.pqCap ∧ emitPacket s =
      andThen (release .parser s.cur (s.drop .queueFullFrame)) fun t => .next t.parserReset) := by
  rcases pqPut_cases s s.cur with ⟨h, hp⟩ | ⟨h, hp⟩
  · exact .inr ⟨h, by simp [emitPacket, hp]⟩
  · exact .inl ⟨h, by simp [emitPacket, hp]⟩

/-- Where ABORT completes, and with what. -/
theorem abortFrame_eq_next {s t : State} : abortFrame s = .next t ↔
    s.cur < s.cfg.nPackets ∧ s.isFree s.cur = false ∧ s.owner s.cur = .parser ∧
      t = (s.giveBack s.cur).parserReset := by
  constructor
  · intro h
    obtain ⟨u, hr, hu⟩ := andThen_eq_next h
    obtain ⟨h1, h2, h3, rfl⟩ := release_eq_next.1 hr
    exact ⟨h1, h2, h3, by simpa using hu.symm⟩
  · rintro ⟨h1, h2, h3, rfl⟩
    simp [abortFrame, release_eq_next.2 ⟨h1, h2, h3, rfl⟩]

/-- Everything RX_BYTE can do in state ReadCommand. -/
theorem rxReadCommand_cases (b : Byte) (s : State) :
    (validTag s.cfg b = false ∧ rxReadCommand b s = .next (s.drop .invalidTag)) ∨
    (validTag s.cfg b = true ∧ s.held = true ∧ rxReadCommand b s = storeCommand b s) ∨
    (validTag s.cfg b = true ∧ s.held = false ∧ s.exhausted = true ∧ rxReadCommand b s = .next (s.drop .noBuffer)) ∨
    ∃ h, validTag s.cfg b = true ∧ s.held = false ∧ h < s.cfg.nPackets ∧ s.isFree h = true ∧
      rxReadCommand b s = storeCommand b { s.takeBuffer h with cur := h, held := true } := by
  cases hv : validTag s.cfg b with
  | false => exact .inl ⟨rfl, by simp [rxReadCommand, hv]⟩
  | true =>
    cases hh : s.held with
    | true => exact .inr (.inl ⟨rfl, rfl, by simp [rxReadCommand, hv, hh]⟩)
    | false =>
      rcases allocate_cases s with ⟨he, ha⟩ | ⟨h, _, hn, hf, ha⟩
      · exact .inr (.inr (.inl ⟨rfl, rfl, he, by simp [rxReadCommand, hv, hh, ha]⟩))
      · exact .inr (.inr (.inr ⟨h, rfl, rfl, hn, hf, by simp [rxReadCommand, hv, hh, ha]⟩))

/-- A byte has its position's meaning, whichever row it is called by. -/
theorem atPosition_eq_receive {ps : ParserState} {row : Byte → State → Result} {b : Byte} {s : State}
    (h : s.ps = ps → row b s = receive b s) : atPosition ps row b s = receive b s := by
  simp only [atPosition]
  split
  · exact h ‹_›
  · rfl

/-! The workers. -/

/-- Where an arm of the dispatcher completes, and with what. -/
theorem dispatching_eq_next {tag : Byte} {s t : State} {arm : Nat → Result} : dispatching tag s arm = .next t ↔
    ∃ p, s.wdisp = .holding p ∧ p < s.cfg.nPackets ∧ s.owner p = .worker ∧ s.command p = tag ∧ arm p = .next t := by
  constructor
  · intro h
    simp only [dispatching] at h
    split at h
    · next p hp =>
      obtain ⟨h1, h2, h3⟩ := readable_eq_next h
      split at h3
      · exact ⟨p, hp, h1, h2, ‹_›, h3⟩
      · cases h3
    · cases h
    · cases h
    · cases h
  · rintro ⟨p, hp, h1, h2, h3, ha⟩
    simp [dispatching, readable, hp, Nat.not_le.2 h1, h2, h3, ha]

/-- An arm that is not the one of the command held is out of the loop's order. -/
theorem dispatching_other_command {tag : Byte} {s : State} {arm : Nat → Result} {p : Nat} (hp : s.wdisp = .holding p)
    (hn : p < s.cfg.nPackets) (ho : s.owner p = .worker) (hc : s.command p ≠ tag) :
    dispatching tag s arm = .fault .outOfLoop := by
  simp [dispatching, readable, hp, Nat.not_le.2 hn, ho, hc]

/-- Everything one step of `send` can do (R172): acquire, wait, write one byte, release. -/
theorem sendStep_cases (c : Ctx) (f : Frame) (done : State → State) (s : State) :
    (s.writer = none ∧ sendStep c f done s = answer .none { s with writer := some { holder := c, rest := f.bytes } }) ∨
    (∃ w, s.writer = some w ∧ w.holder ≠ c ∧ sendStep c f done s = answer .held s) ∨
    (s.writer = some { holder := c, rest := [] } ∧
      sendStep c f done s = answer .none (done { s with writer := none })) ∨
    ∃ b bs, s.writer = some { holder := c, rest := b :: bs } ∧ sendStep c f done s =
      answer .none { s with tx := s.tx ++ [b], writer := some { holder := c, rest := bs } } := by
  cases hw : s.writer with
  | none => exact .inl ⟨rfl, by simp [sendStep, hw]⟩
  | some w =>
    obtain ⟨hc, rest⟩ := w
    by_cases h : hc = c
    · subst h
      cases rest with
      | nil => exact .inr (.inr (.inl ⟨rfl, by simp [sendStep, hw]⟩))
      | cons b bs => exact .inr (.inr (.inr ⟨b, bs, rfl, by simp [sendStep, hw]⟩))
    · exact .inr (.inl ⟨_, rfl, h, by simp [sendStep, hw, h]⟩)

/-! The step. -/

/-- A step that runs: the picked transaction, the operation it is, and that operation's effect. -/
theorem step_eq_next {s t : State} (h : step s = .next t) :
    (pick s [] s.trace = none ∧ t = s) ∨
    ∃ x rest i, pick s [] s.trace = some (x, rest) ∧ fetch s x = .ok i ∧
      exec i { s with trace := rest } = .next t := by
  simp only [step] at h
  split at h
  · next hp => exact .inl ⟨hp, by simpa using h.symm⟩
  · next x rest hp =>
    split at h
    · next i hf => exact .inr ⟨x, rest, i, hp, hf, h⟩
    · cases h

end Sys2Proof.Machine
end

