-- ==== Sys2Proof/Laws/PerInstr.lean ====
section
/-! SUPPORT. Statements made of every operation as syntax, one lemma per constructor of `Instr`. -/

namespace Sys2Proof.Laws.EncodesForItsCaller

/-- The transaction that presents an operation is presented by the context that invokes it (R141, R150), and it names the
operation: it is not a worker's request to take the next step of its loop. -/
def Statement (i : Instr) : Prop := (encode i).ctx = Machine.caller i ∧ (encode i).port ≠ .run

/-- A tag byte is presented on RX or, by a worker, in its `case cmd` (R161). -/
theorem byteTxn_port (c : Ctx) (b : Byte) : (byteTxn c b).port ≠ .run := by
  simp only [byteTxn]
  split <;> decide

theorem spiSetup (c : Ctx) : Statement (.spiSetup c) :=
  ⟨rfl, byteTxn_port _ _⟩

theorem spiSetupAnswer (c : Ctx) : Statement (.spiSetupAnswer c) :=
  ⟨rfl, byteTxn_port _ _⟩

theorem spiTransfer (c : Ctx) : Statement (.spiTransfer c) :=
  ⟨rfl, byteTxn_port _ _⟩

theorem spiTransferAnswer (c : Ctx) : Statement (.spiTransferAnswer c) :=
  ⟨rfl, byteTxn_port _ _⟩

theorem interruptRegister (c : Ctx) : Statement (.interruptRegister c) :=
  ⟨rfl, byteTxn_port _ _⟩

theorem interruptRegisterAnswer (c : Ctx) : Statement (.interruptRegisterAnswer c) :=
  ⟨rfl, byteTxn_port _ _⟩

theorem interruptEvent (c : Ctx) : Statement (.interruptEvent c) :=
  ⟨rfl, byteTxn_port _ _⟩

theorem wireReset (c : Ctx) : Statement (.wireReset c) :=
  ⟨rfl, byteTxn_port _ _⟩

theorem resetAnswer (c : Ctx) : Statement (.resetAnswer c) :=
  ⟨rfl, byteTxn_port _ _⟩

theorem invalidTag00 (c : Ctx) : Statement (.invalidTag00 c) :=
  ⟨rfl, byteTxn_port _ _⟩

theorem invalidTag0A (c : Ctx) (x : BitVec 1) : Statement (.invalidTag0A c x) :=
  ⟨rfl, byteTxn_port _ _⟩

theorem invalidTag0C (c : Ctx) (x : BitVec 2) : Statement (.invalidTag0C c x) :=
  ⟨rfl, byteTxn_port _ _⟩

theorem invalidTag10 (c : Ctx) (x : BitVec 4) : Statement (.invalidTag10 c x) :=
  ⟨rfl, byteTxn_port _ _⟩

theorem invalidTag20 (c : Ctx) (x : BitVec 5) : Statement (.invalidTag20 c x) :=
  ⟨rfl, byteTxn_port _ _⟩

theorem invalidTag40 (c : Ctx) (x : BitVec 6) : Statement (.invalidTag40 c x) :=
  ⟨rfl, byteTxn_port _ _⟩

theorem invalidTag80 (c : Ctx) (x : BitVec 7) : Statement (.invalidTag80 c x) :=
  ⟨rfl, byteTxn_port _ _⟩

theorem rxReadLenLow (b : Byte) : Statement (.rxReadLenLow b) :=
  ⟨rfl, Port.noConfusion⟩

theorem rxReadLenHigh (b : Byte) : Statement (.rxReadLenHigh b) :=
  ⟨rfl, Port.noConfusion⟩

theorem rxReadData (b : Byte) : Statement (.rxReadData b) :=
  ⟨rfl, Port.noConfusion⟩

theorem rxByte (c : Ctx) (b : Byte) : Statement (.rxByte c b) :=
  ⟨rfl, Port.noConfusion⟩

theorem edge (c : Ctx) (pin : Half) (rising : Bool) : Statement (.edge c pin rising) :=
  ⟨rfl, Port.noConfusion⟩

theorem poolAlloc (c : Ctx) : Statement (.poolAlloc c) :=
  ⟨rfl, Port.noConfusion⟩

theorem poolRelease (c : Ctx) (h : Nat) : Statement (.poolRelease c h) :=
  ⟨rfl, Port.noConfusion⟩

theorem pqTryPut (c : Ctx) (x : Nat) : Statement (.pqTryPut c x) :=
  ⟨rfl, Port.noConfusion⟩

theorem pqGet (c : Ctx) : Statement (.pqGet c) :=
  ⟨rfl, Port.noConfusion⟩

theorem eqTryPut (c : Ctx) (x : Word) : Statement (.eqTryPut c x) :=
  ⟨rfl, Port.noConfusion⟩

theorem eqGet (c : Ctx) : Statement (.eqGet c) :=
  ⟨rfl, Port.noConfusion⟩

theorem bufRead (c : Ctx) (h : Nat) (f : BufField) : Statement (.bufRead c h f) :=
  ⟨rfl, Port.noConfusion⟩

theorem blockReset (c : Ctx) : Statement (.blockReset c) :=
  ⟨rfl, Port.noConfusion⟩

theorem emit (c : Ctx) : Statement (.emit c) :=
  ⟨rfl, Port.noConfusion⟩

theorem abort (c : Ctx) : Statement (.abort c) :=
  ⟨rfl, Port.noConfusion⟩

theorem handle (c : Ctx) (h : Nat) : Statement (.handle c h) :=
  ⟨rfl, Port.noConfusion⟩

theorem eventWord (c : Ctx) (rising : Bool) (pin : Half) : Statement (.eventWord c rising pin) :=
  ⟨rfl, Port.noConfusion⟩

end Sys2Proof.Laws.EncodesForItsCaller
end

