-- ==== Sys2Proof/Tests/Slice0.lean ====
section
/-! SUPPORT. Tests. Expected values come from spec/95_test_vectors.md (the T and P numbers) or from the encodings of
spec/30_encoding.md, written out by hand; then, for each statement with hypotheses, states and operands that meet them. -/

namespace Sys2Proof.Tests

open Sys2Proof.Machine

/-! ## States to start from -/

/-- The reset state of spec/95_test_vectors.md, with fixed contents where reset leaves them unspecified. -/
def base : State :=
  { State.reset with
    cur := 0, pq := { slot := [0, 0, 0, 0, 0], wr := 0, rd := 0 }, evq := { slot := [0, 0, 0, 0, 0], wr := 0, rd := 0 } }

/-- Buffer 0 written: command, length, payload. -/
def packet (cmd : Byte) (len : Half) (p : List Byte) : List Host.Cell :=
  (0, cmd) :: (1, len.extractLsb' 0 8) :: (2, len.extractLsb' 8 8) :: p.mapIdx fun i b => (3 + i, b)

/-- Buffer 0 checked out, owned by `o`, with a packet in it. -/
def owned (o : Owner) (cmd : Byte) (len : Half) (p : List Byte) : State :=
  { base with free := [false, true, true, true, true], own := [o, .free, .free, .free, .free], mem := packet cmd len p }

/-- The parser in `ps`, building a frame in buffer 0. -/
def building (ps : ParserState) (cnt : Half) (cmd : Byte) (len : Half) (p : List Byte) : State :=
  { owned .parser cmd len p with ps := ps, held := true, cnt := cnt }

/-- The dispatcher holding a packet in buffer 0. -/
def dispatcherWith (cmd : Byte) (len : Half) (p : List Byte) : State :=
  { owned .worker cmd len p with wdisp := .holding 0 }

/-- T40: all buffers queued, the pool exhausted. -/
def exhausted : State :=
  { base with
    free := [false, false, false, false, false], own := [.queued, .queued, .queued, .queued, .queued]
    pq := { slot := [0, 1, 2, 3, 4], wr := 5, rd := 0 }
    mem := (List.range 5).flatMap fun h => [(h * 515, 8), (h * 515 + 1, 0), (h * 515 + 2, 0)] }

/-- T42: `PQ_CAP` = 2, two packets queued, the parser building a third in buffer 2 (`ps` = `RLH 1 2 0`). -/
def queueFull : State :=
  { base with
    cfg := { Params.default with pqCap := 2 }
    ps := .readLenHigh, held := true, cur := 2
    free := [false, false, false, true, true], own := [.queued, .queued, .parser, .free, .free]
    pq := { slot := [0, 1], wr := 2, rd := 0 }
    mem := [(0, 8), (1, 0), (2, 0), (515, 8), (516, 0), (517, 0), (1030, 8), (1031, 0), (1032, 0)] }

/-- T44: `EQ` full. -/
def eventsFull : State := { base with evq := { slot := [0x1000A, 0xB, 0x1000C, 0xD, 0x1000E], wr := 5, rd := 0 } }

/-- T34: one event in `EQ`. -/
def oneEvent : State := { base with evq := { slot := [0x10005, 0, 0, 0, 0], wr := 1, rd := 0 } }

/-- T22: one packet in `PQ`. -/
def oneQueued : State :=
  { owned .queued 0x03 0 [] with pq := { slot := [0, 0, 0, 0, 0], wr := 1, rd := 0 } }

/-- What `f` sees after an operation that completes. -/
def after {α : Type} (r : Result) (f : State → α) : Option α :=
  match r with
  | .next s => some (f s)
  | .fault _ => none
  | .refused _ => none

/-- The fault an operation raises. -/
def faultOf (r : Result) : Option Fault :=
  match r with
  | .next _ => none
  | .fault f => some f
  | .refused _ => none

/-! ## WellFormed refuses what does not fit its port -/

theorem test_wf_release_handle : wellFormed .default (.poolRelease .wdisp 8) = false := by decide
theorem test_wf_release_reserved : wellFormed .default (.poolRelease .wdisp 7) = true := by decide
theorem test_wf_put_handle : wellFormed .default (.pqTryPut .irx 8) = false := by decide
theorem test_wf_read_handle : wellFormed .default (.bufRead .wdisp 8 .length) = false := by decide
theorem test_wf_read_offset : wellFormed .default (.bufRead .wdisp 0 (.payload 512)) = false := by decide
theorem test_wf_read_last_offset : wellFormed .default (.bufRead .wdisp 0 (.payload 511)) = true := by decide
theorem test_wf_handle : wellFormed .default (.handle .irx 8) = false := by decide

/-! ## Decoding, on words written out from R63, R69, R68, R131, R130, R76 -/

/-- A byte on RX in parser state `ps`. -/
def rxIn (ps : ParserState) (w : Nat) : Except DecodeError Instr :=
  decode .default ps { port := .rx, ctx := .irx, data := w }

/-- Any other transaction. -/
def txn (p : Port) (c : Ctx) (w : Nat) : Except DecodeError Instr :=
  decode .default .readCommand { port := p, ctx := c, data := w }

theorem test_decode_spiSetup : rxIn .readCommand 0b00000001 = .ok (.spiSetup .irx) := by decide
theorem test_decode_spiSetupAnswer : rxIn .readCommand 0b00000010 = .ok (.spiSetupAnswer .irx) := by decide
theorem test_decode_spiTransfer : rxIn .readCommand 0b00000011 = .ok (.spiTransfer .irx) := by decide
theorem test_decode_spiTransferAnswer : rxIn .readCommand 0b00000100 = .ok (.spiTransferAnswer .irx) := by decide
theorem test_decode_interruptRegister : rxIn .readCommand 0b00000101 = .ok (.interruptRegister .irx) := by decide
theorem test_decode_interruptRegisterAnswer : rxIn .readCommand 0b00000110 = .ok (.interruptRegisterAnswer .irx) := by
  decide
theorem test_decode_interruptEvent : rxIn .readCommand 0b00000111 = .ok (.interruptEvent .irx) := by decide
theorem test_decode_wireReset : txn .cmd .wdisp 0b00001000 = .ok (.wireReset .wdisp) := by decide
theorem test_decode_resetAnswer : rxIn .readCommand 0b00001001 = .ok (.resetAnswer .irx) := by decide
theorem test_decode_invalidTag00 : rxIn .readCommand 0b00000000 = .ok (.invalidTag00 .irx) := by decide
theorem test_decode_invalidTag0A : rxIn .readCommand 0b00001011 = .ok (.invalidTag0A .irx 1) := by decide
theorem test_decode_invalidTag0C : rxIn .readCommand 0b00001110 = .ok (.invalidTag0C .irx 0b10) := by decide
theorem test_decode_invalidTag10 : rxIn .readCommand 0b00011001 = .ok (.invalidTag10 .irx 0b1001) := by decide
theorem test_decode_invalidTag20 : rxIn .readCommand 0b00110001 = .ok (.invalidTag20 .irx 0b10001) := by decide
theorem test_decode_invalidTag40 : rxIn .readCommand 0b01111110 = .ok (.invalidTag40 .irx 0b111110) := by decide
theorem test_decode_invalidTag80 : rxIn .readCommand 0b11111110 = .ok (.invalidTag80 .irx 0b1111110) := by decide
theorem test_decode_rxReadLenLow : rxIn .readLenLow 0x07 = .ok (.rxReadLenLow 0x07) := by decide
theorem test_decode_rxReadLenHigh : rxIn .readLenHigh 0x02 = .ok (.rxReadLenHigh 0x02) := by decide
theorem test_decode_rxReadData : rxIn .readData 0xFF = .ok (.rxReadData 0xFF) := by decide
theorem test_decode_rxByte : txn .rxOp .irx 0x08 = .ok (.rxByte .irx 0x08) := by decide
theorem test_decode_edge : txn .edge .igpio 0b1_1111_1111_1111_1110 = .ok (.edge .igpio 0xFFFE true) := by decide
theorem test_decode_edge_falling : txn .edge .igpio 5 = .ok (.edge .igpio 5 false) := by decide
theorem test_decode_edge_bits : txn .edge .igpio 0x20000 = .error .operandBits := by decide
theorem test_decode_poolAlloc : txn .alloc .irx 0 = .ok (.poolAlloc .irx) := by decide
theorem test_decode_poolRelease : txn .rel .wdisp 0b101 = .ok (.poolRelease .wdisp 5) := by decide
theorem test_decode_pqTryPut : txn .pqPut .irx 2 = .ok (.pqTryPut .irx 2) := by decide
theorem test_decode_pqGet : txn .pqGet .wdisp 0 = .ok (.pqGet .wdisp) := by decide
theorem test_decode_eqTryPut : txn .eqPut .igpio 0x10005 = .ok (.eqTryPut .igpio 0x10005) := by decide
theorem test_decode_eqGet : txn .eqGet .wevt 0 = .ok (.eqGet .wevt) := by decide
theorem test_decode_bufRead :
    txn .bufRd .wdisp 0b011_0000000000000111_10 = .ok (.bufRead .wdisp 3 (.payload 7)) := by decide
theorem test_decode_bufRead_offset :
    txn .bufRd .wdisp 0b011_0000001000000000_10 = .error .offsetRange := by decide
theorem test_decode_bufRead_field : txn .bufRd .wdisp 0b11 = .error .noSuchField := by decide
theorem test_decode_blockReset : txn .rst .platform 0 = .ok (.blockReset .platform) := by decide
theorem test_decode_emit : txn .emit .irx 0 = .ok (.emit .irx) := by decide
theorem test_decode_abort : txn .abort .irx 0 = .ok (.abort .irx) := by decide
theorem test_decode_handle : txn .handle .wdisp 0b100 = .ok (.handle .wdisp 4) := by decide
theorem test_decode_eventWord : txn .word .wevt 0x1FFFF = .ok (.eventWord .wevt true 0xFFFF) := by decide
theorem test_decode_eventWord_reserved : txn .word .wevt 0x20000 = .error .reservedWordBits := by decide

/-- The opcode table's rows that have bits, by its own numbering. -/
theorem test_table_word : decodeTableWord 8 0x05 = some (.interruptRegister .irx) ∧
    decodeTableWord 8 0x80 = some (.invalidTag80 .irx 0) ∧
    decodeTableWord 32 0x10005 = some (.eventWord .igpio true 5) := by decide

/-- A table word is the first thing to run after reset. -/
theorem test_fetch_word : after (step (State.reset.withFetchWord 8 0x01)) (fun t => (t.ps, t.held, t.free)) =
    some (.readLenLow, true, [false, true, true, true, true]) := by decide

/-! ## One step each -/

/-- T20: a tag from the reset state. -/
def opened (t : State) : ParserState × Bool × Nat × Byte × List Bool := (t.ps, t.held, t.cur, t.command 0, t.free)

/-- T20's expected state after tag `b`. -/
def openedBy (b : Byte) : Option (ParserState × Bool × Nat × Byte × List Bool) :=
  some (.readLenLow, true, 0, b, [false, true, true, true, true])

theorem test_rx_spiSetup : after (exec (.spiSetup .irx) base) opened = openedBy 0x01 := by decide
theorem test_rx_spiSetupAnswer : after (exec (.spiSetupAnswer .irx) base) opened = openedBy 0x02 := by decide
theorem test_rx_spiTransfer : after (exec (.spiTransfer .irx) base) opened = openedBy 0x03 := by decide
theorem test_rx_spiTransferAnswer : after (exec (.spiTransferAnswer .irx) base) opened = openedBy 0x04 := by decide
theorem test_rx_interruptRegister : after (exec (.interruptRegister .irx) base) opened = openedBy 0x05 := by decide
theorem test_rx_interruptRegisterAnswer :
    after (exec (.interruptRegisterAnswer .irx) base) opened = openedBy 0x06 := by decide
theorem test_rx_interruptEvent : after (exec (.interruptEvent .irx) base) opened = openedBy 0x07 := by decide
theorem test_rx_wireReset : after (exec (.wireReset .irx) base) opened = openedBy 0x08 := by decide
theorem test_rx_resetAnswer : after (exec (.resetAnswer .irx) base) opened = openedBy 0x09 := by decide

/-- T20: an invalid tag. -/
def discarded (t : State) : ParserState × List Bool × List DropReason := (t.ps, t.free, t.log)

/-- T20's expected state after an invalid tag. -/
def invalid : Option (ParserState × List Bool × List DropReason) :=
  some (.readCommand, [true, true, true, true, true], [.invalidTag])

theorem test_rx_invalidTag00 : after (exec (.invalidTag00 .irx) base) discarded = invalid := by decide
theorem test_rx_invalidTag0A : after (exec (.invalidTag0A .irx 0) base) discarded = invalid := by decide
theorem test_rx_invalidTag0C : after (exec (.invalidTag0C .irx 3) base) discarded = invalid := by decide
theorem test_rx_invalidTag10 : after (exec (.invalidTag10 .irx 0) base) discarded = invalid := by decide
theorem test_rx_invalidTag20 : after (exec (.invalidTag20 .irx 31) base) discarded = invalid := by decide
theorem test_rx_invalidTag40 : after (exec (.invalidTag40 .irx 0x3F) base) discarded = invalid := by decide
theorem test_rx_invalidTag80 : after (exec (.invalidTag80 .irx 0x7F) base) discarded = invalid := by decide

/-- T29: on an exhausted pool a valid tag is NoBuffer, an invalid one InvalidTag. -/
theorem test_rx_exhausted : after (exec (.rxByte .irx 0x08) exhausted) State.log = some [.noBuffer] ∧
    after (exec (.rxByte .irx 0x00) exhausted) State.log = some [.invalidTag] := by decide

/-- T21: the low length byte is zero-extended. -/
theorem test_rx_low : after (exec (.rxReadLenLow 0x34) (building .readLenLow 0 1 0xFFFF [])) (fun t => (t.ps, t.length 0))
    = some (.readLenHigh, 0x0034) := by decide

/-- T21: 512 is accepted, 513 is not. -/
theorem test_rx_high : after (exec (.rxReadLenHigh 0x02) (building .readLenHigh 0 1 0 [])) (fun t => (t.ps, t.length 0))
      = some (.readData, 512) ∧
    after (exec (.rxReadLenHigh 0x02) (building .readLenHigh 0 1 1 [])) (fun t => (t.ps, t.held, t.free, t.log))
      = some (.readCommand, false, [true, true, true, true, true], [.oversizeLength]) := by decide

/-- T42: the zero-length frame meets a full queue: dropped, and its buffer released. -/
theorem test_rx_high_full : after (exec (.rxReadLenHigh 0x00) queueFull) (fun t => (t.ps, t.free, t.queued, t.log))
    = some (.readCommand, [false, false, true, true, true], [0, 1], [.queueFullFrame]) := by decide

/-- T26: the last payload byte emits; the one before does not. -/
theorem test_rx_data : after (exec (.rxReadData 0xCC) (building .readData 4 3 5 [0x0A, 0, 0xAA, 0xBB]))
      (fun t => (t.ps, t.queued, t.payload 0 4)) = some (.readCommand, [0], 0xCC) ∧
    after (exec (.rxReadData 0xBB) (building .readData 3 3 5 [0x0A, 0, 0xAA])) (fun t => (t.ps, t.cnt, t.queued))
      = some (.readData, 4, []) := by decide

/-- T28: an edge between two bytes; T44: an edge on a full queue. -/
theorem test_edge : after (exec (.edge .igpio 7 true) base) (fun t => t.evq.items 5) = some [0x00010007] ∧
    after (exec (.edge .igpio 15 false) eventsFull) (fun t => (t.evq.wr, t.log)) = some (5, [.queueFullEvent]) := by decide

/-- T10, T11. -/
theorem test_alloc : after (exec (.poolAlloc .irx) base) (fun t => (t.out, t.free)) =
      some (.handle 0, [false, true, true, true, true]) ∧
    after (exec (.poolAlloc .irx) exhausted) (fun t => t.out) = some .noHandle := by decide

/-- T10: any free buffer is correct under another `alloc_choice`. -/
theorem test_alloc_choice : after (exec (.poolAlloc .irx) { base with allocChoice := [3] }) (fun t => t.out) =
    some (.handle 3) := by decide

/-- T13 (a) to (c), and the order of the checks. -/
theorem test_release_faults : faultOf (exec (.poolRelease .wdisp 2) base) = some .doubleRelease ∧
    faultOf (exec (.poolRelease .wdisp 5) base) = some .badHandle ∧
    faultOf (exec (.poolRelease .wdisp 0) oneQueued) = some .foreignRelease := by decide

/-- P1, step 14. -/
theorem test_release : after (exec (.poolRelease .wdisp 0) { dispatcherWith 1 7 [] with wdisp := .answered 0 })
    (fun t => (t.free, t.wdisp)) = some ([true, true, true, true, true], .idle) := by decide

/-- R92's example, and T16. -/
theorem test_pqTryPut : after (exec (.pqTryPut .irx 2) base) (fun t => (t.out, t.pq.slot, t.pq.wr)) =
      some (.bool true, [2, 0, 0, 0, 0], 1) ∧
    after (exec (.pqTryPut .irx 2) exhausted) (fun t => (t.out, t.pq.wr)) = some (.bool false, 5) := by decide

/-- T41: the first get of T40; T15: an empty queue holds the consumer. -/
theorem test_pqGet : after (exec (.pqGet .wdisp) exhausted) (fun t => (t.out, t.queued)) = some (.handle 0, [1, 2, 3, 4]) ∧
    after (exec (.pqGet .wdisp) base) (fun t => t.out) = some .held := by decide

/-- T17: the put at `wr` = 9 stores in `slot[4]` and wraps to 0. -/
theorem test_eqTryPut : after (exec (.eqTryPut .igpio 7) { base with evq := { slot := [0, 0, 0, 0, 0], wr := 9, rd := 9 } })
    (fun t => (t.evq.slot, t.evq.wr, t.evq.items 5)) = some ([0, 0, 0, 0, 7], 0, [7]) := by decide

/-- T44: the first get. -/
theorem test_eqGet : after (exec (.eqGet .wevt) eventsFull) (fun t => (t.out, t.evq.rd)) =
    some (.event 0x1000A, 1) := by decide

/-- T60. -/
theorem test_bufRead : faultOf (exec (.bufRead .wdisp 0 .command) oneQueued) = some .foreignAccess ∧
    faultOf (exec (.bufRead .wdisp 6 .command) oneQueued) = some .badHandle ∧
    after (exec (.bufRead .wdisp 0 .command) (dispatcherWith 8 0 [])) (fun t => t.out) = some (.byte 8) := by decide

/-- P1, step 12: a field of the packet. -/
theorem test_bufRead_payload : after (exec (.bufRead .wdisp 0 (.payload 2)) (dispatcherWith 5 3 [7, 0, 3])) (fun t => t.out) =
    some (.byte 3) := by decide

/-- T70. -/
theorem test_reset : after (exec (.blockReset .platform) queueFull) (fun t => (t.ps, t.held, t.free, t.queued)) =
    some (.readCommand, false, [true, true, true, true, true], []) := by decide

/-- R109. -/
theorem test_emit : after (exec (.emit .irx) (building .readData 3 5 3 [7, 0, 3])) (fun t => (t.held, t.cnt, t.queued)) =
    some (false, 0, [0]) := by decide

/-- R113. -/
theorem test_abort : after (exec (.abort .irx) (building .readLenHigh 0 3 1 [])) (fun t => (t.ps, t.free, t.queued)) =
    some (.readCommand, [true, true, true, true, true], []) := by decide

/-- R47, R76: 5 names no buffer. -/
theorem test_handle : faultOf (exec (.handle .wdisp 5) base) = some .badHandle ∧
    after (exec (.handle .wdisp 4) base) (fun t => t.out) = some (.handle 4) := by decide

/-- T34: `edge -32768 rising`, encoded by the relay; and decoded by the worker into its frame. -/
theorem test_eventWord : after (exec (.eventWord .igpio true 0x8000) base) (fun t => t.out) = some (.event 0x00018000) ∧
    after (exec (.eventWord .wevt true 0x8000) { base with wevt := .holding 0x00018000 }) (fun t => t.wevt) =
      some (.sending { tag := 7, payload := [0x00, 0x80, 0x01] }) := by decide

/-- T34, last column: the frame of `edge -1 falling`. -/
theorem test_event_frame : (eventFrame 0xFFFF false).bytes = [0x07, 0x03, 0x00, 0xFF, 0xFF, 0x02] := by decide

/-- The answer the dispatcher has composed, and the calls it has made. -/
def composed (t : State) : DispPhase × List AdapterCall := (t.wdisp, t.calls)

/-- T3 (T50), and T52. -/
theorem test_dispatch_spiSetup :
    after (exec (.spiSetup .wdisp) { dispatcherWith 1 7 [0x40, 0x42, 0x0F, 0, 0, 5, 0] with replies := [⟨true, []⟩] })
      composed = some (.answering 0 ⟨2, [1]⟩, [.spiSetup 1000000 0 [5]]) ∧
    after (exec (.spiSetup .wdisp) (dispatcherWith 1 6 [0x40, 0x42, 0x0F, 0, 0, 5])) composed =
      some (.answering 0 ⟨2, [2]⟩, []) := by decide

/-- T54. -/
theorem test_dispatch_spiTransfer :
    after (exec (.spiTransfer .wdisp)
        { dispatcherWith 3 5 [0x0A, 0, 0xAA, 0xBB, 0xCC] with replies := [⟨true, [1, 2, 3]⟩] }) composed =
      some (.answering 0 ⟨4, [1, 2, 3]⟩, [.spiTransfer 10 [0xAA, 0xBB, 0xCC]]) := by decide

/-- T4: the first registration of pin 5, and the second. -/
theorem test_dispatch_interruptRegister :
    after (exec (.interruptRegister .wdisp) { dispatcherWith 5 3 [5, 0, 3] with replies := [⟨true, []⟩] })
      (fun t => (t.wdisp, t.gpioPins)) = some (.answering 0 ⟨6, [1]⟩, [(5, 3)]) ∧
    after (exec (.interruptRegister .wdisp)
        { dispatcherWith 5 3 [5, 0, 3] with replies := [⟨true, []⟩], gpioPins := [(5, 3)] })
      (fun t => (t.wdisp, t.gpioPins)) = some (.answering 0 ⟨6, [2]⟩, [(5, 3)]) := by decide

/-- T6: length 2, and mode 4. -/
theorem test_dispatch_interruptRegister_nack :
    after (exec (.interruptRegister .wdisp) (dispatcherWith 5 2 [5, 0])) composed = some (.answering 0 ⟨6, [2]⟩, []) ∧
    after (exec (.interruptRegister .wdisp) (dispatcherWith 5 3 [5, 0, 4])) composed =
      some (.answering 0 ⟨6, [2]⟩, []) := by decide

/-- T58. -/
theorem test_dispatch_wireReset :
    after (exec (.wireReset .wdisp) { dispatcherWith 8 0 [] with gpioPins := [(5, 3)] }) (fun t => (t.wdisp, t.gpioPins)) =
      some (.answering 0 ⟨9, [1]⟩, []) := by decide

/-- T30: a device→host tag from the host draws nothing. -/
theorem test_dispatch_interruptEvent :
    after (exec (.interruptEvent .wdisp) (dispatcherWith 7 3 [5, 0, 1])) composed = some (.answered 0, []) := by decide

/-- R161, R169: the arm of another command than the packet's is not taken; that of the packet's is. -/
theorem test_dispatch_other_command : faultOf (exec (.wireReset .wdisp) (dispatcherWith 1 0 [])) = some .outOfLoop ∧
    faultOf (exec (.spiSetupAnswer .wdisp) (dispatcherWith 1 0 [])) = some .outOfLoop ∧
    faultOf (exec (.invalidTag0A .wdisp 0) (dispatcherWith 0x0B 0 [])) = some .outOfLoop ∧
    after (exec (.invalidTag0A .wdisp 1) (dispatcherWith 0x0B 0 [])) composed = some (.answered 0, []) := by decide

/-- P1, step 13: the second byte of the answer `02 01 00 01`. -/
theorem test_send_answer : after (exec (.spiSetupAnswer .wdisp)
      { base with wdisp := .answering 0 ⟨2, [1]⟩, writer := some ⟨.wdisp, [1, 0, 1]⟩, tx := [2] }) (fun t => t.tx) =
    some [2, 1] := by decide

/-- R172: the dispatcher is held at the lock; T34: the event worker writes the fourth byte of its frame. -/
theorem test_send_event : after (exec (.resetAnswer .wdisp)
      { base with wdisp := .answering 0 ⟨9, [1]⟩, writer := some ⟨.wevt, [5, 0, 1]⟩ }) (fun t => (t.out, t.tx)) =
      some (.held, []) ∧
    after (exec (.interruptEvent .wevt)
      { base with wevt := .sending ⟨7, [5, 0, 1]⟩, writer := some ⟨.wevt, [5, 0, 1]⟩, tx := [7, 3, 0] }) (fun t => t.tx) =
      some [7, 3, 0, 5] := by decide

/-- R172: the lock is released after the last byte, and the loop goes on. -/
theorem test_send_last : after (exec (.interruptRegisterAnswer .wdisp)
      { base with wdisp := .answering 0 ⟨6, [1]⟩, writer := some ⟨.wdisp, []⟩ }) (fun t => (t.writer, t.wdisp)) =
      some (none, .answered 0) ∧
    after (exec (.spiTransferAnswer .wdisp) { base with wdisp := .answering 0 ⟨4, [9]⟩ }) (fun t => t.writer) =
      some (some ⟨.wdisp, [4, 1, 0, 9]⟩) := by decide

/-- T61, and R195: re-entrance. -/
theorem test_wrong_context : faultOf (exec (.pqGet .irx) base) = some .wrongContext ∧
    faultOf (exec (.rxByte .wdisp 1) base) = some .wrongContext ∧
    faultOf (exec (.eqGet .wdisp) base) = some .wrongContext ∧
    faultOf (exec (.rxByte .reentry 1) base) = some .wrongContext := by decide

/-- D17: the faults of a handle come before WrongContext. -/
theorem test_wrong_context_last : faultOf (exec (.poolRelease .wevt 6) base) = some .badHandle ∧
    faultOf (exec (.poolRelease .wevt 4) base) = some .doubleRelease ∧
    faultOf (exec (.poolRelease .wevt 0) (dispatcherWith 8 0 [])) = some .wrongContext ∧
    faultOf (exec (.bufRead .irx 6 .command) base) = some .badHandle ∧
    faultOf (exec (.bufRead .irx 0 .command) oneQueued) = some .foreignAccess ∧
    faultOf (exec (.bufRead .irx 0 .command) (dispatcherWith 8 0 [])) = some .wrongContext := by decide

/-- T19: the held worker, then an edge lifts the hold. -/
theorem test_step_held : after (step { base with trace := getEqLine ++ edgeLine 5 true }) (fun t => (t.trace, t.evq.items 5))
    = some (getEqLine, [0x00010005]) := by decide

/-! ## States and operands that meet the hypotheses of the statements, clause by clause, at the boundaries -/

/-- `RLL 1 0 0` of T24. -/
def lowState : State := building .readLenLow 0 3 0xFFFF []

/-- `RLH 1 0 0` of T24, with low length byte `lo`. -/
def highState (lo : Half) : State := building .readLenHigh 0 3 lo []

/-- `RD 1 0 2` of T43, but with room in `PQ`. -/
def dataState : State := building .readData 2 5 3 [5, 0]

/-- `RD 1 2 2` of T43. -/
def dataFull : State :=
  { queueFull with
    ps := .readData, cnt := 2
    mem := [(0, 8), (1, 0), (2, 0), (515, 8), (516, 0), (517, 0), (1030, 5), (1031, 3), (1032, 0), (1033, 5), (1034, 0)] }

/-- T43: the last payload byte is about to arrive. -/
def stepping : State := { dataFull with trace := rxLine [3] }

/-- The dispatcher ready to send its answer, the lock as given. -/
def answering (w : Option Writer) : State := { dispatcherWith 8 0 [] with wdisp := .answering 0 ⟨9, [1]⟩, writer := w }

/-- The event worker ready to send its frame, the lock as given. -/
def sending (w : Option Writer) : State := { base with wevt := .sending ⟨7, [5, 0, 1]⟩, writer := w }

/-- The request of a worker's own loop. -/
def loopTxn (c : Ctx) : Txn := { port := .run, ctx := c, data := 0 }

theorem eventsOk_of_empty {s : State} (h : s.evq.items s.cfg.eqCap = []) : EventsOk s := by
  intro ev hev
  rw [h] at hev
  cases hev

theorem blockInv_base : BlockInv base := by
  unfold BlockInv Shape HoldsOne CounterOk OwnPartition PacketsOk Queue.Wf
  refine ⟨?_, ?_, ?_, ?_, ?_, eventsOk_of_empty rfl⟩ <;> decide
theorem blockInv_lowState : BlockInv lowState := by
  unfold BlockInv Shape HoldsOne CounterOk OwnPartition PacketsOk Queue.Wf
  refine ⟨?_, ?_, ?_, ?_, ?_, eventsOk_of_empty rfl⟩ <;> decide
theorem blockInv_highState : BlockInv (highState 0xFF) := by
  unfold BlockInv Shape HoldsOne CounterOk OwnPartition PacketsOk Queue.Wf
  refine ⟨?_, ?_, ?_, ?_, ?_, eventsOk_of_empty rfl⟩ <;> decide
theorem blockInv_dataState : BlockInv dataState := by
  unfold BlockInv Shape HoldsOne CounterOk OwnPartition PacketsOk Queue.Wf
  refine ⟨?_, ?_, ?_, ?_, ?_, eventsOk_of_empty rfl⟩ <;> decide
theorem blockInv_dataFull : BlockInv dataFull := by
  unfold BlockInv Shape HoldsOne CounterOk OwnPartition PacketsOk Queue.Wf
  refine ⟨?_, ?_, ?_, ?_, ?_, eventsOk_of_empty rfl⟩ <;> decide
theorem blockInv_exhausted : BlockInv exhausted := by
  unfold BlockInv Shape HoldsOne CounterOk OwnPartition PacketsOk Queue.Wf
  refine ⟨?_, ?_, ?_, ?_, ?_, eventsOk_of_empty rfl⟩ <;> decide
theorem blockInv_queueFull : BlockInv queueFull := by
  unfold BlockInv Shape HoldsOne CounterOk OwnPartition PacketsOk Queue.Wf
  refine ⟨?_, ?_, ?_, ?_, ?_, eventsOk_of_empty rfl⟩ <;> decide
theorem blockInv_dispatcher : BlockInv (dispatcherWith 8 0 []) := by
  unfold BlockInv Shape HoldsOne CounterOk OwnPartition PacketsOk Queue.Wf
  refine ⟨?_, ?_, ?_, ?_, ?_, eventsOk_of_empty rfl⟩ <;> decide

theorem witness_BootHoldsResetValues : 4 < Params.default.nPackets := by decide
theorem witness_ResetRestoresTheBlockAlone : 4 < queueFull.cfg.nPackets ∧ Ctx.wdisp ≠ Ctx.platform := by decide
theorem witness_InvalidTagIsDiscarded : base.ps = .readCommand ∧ validTag base.cfg 0x00 = false ∧
    validTag base.cfg 0x0A = false ∧ validTag base.cfg 0xFF = false := by decide
theorem witness_InvalidTagRowsAreDiscarded :
    base.ps = .readCommand ∧ base.cfg.tagMin = 0x01 ∧ base.cfg.tagMax = 0x09 := by decide
theorem witness_TagWithoutBufferIsDropped : exhausted.ps = .readCommand ∧ validTag exhausted.cfg 0x08 = true ∧
    exhausted.held = false ∧ exhausted.exhausted = true := by decide
theorem witness_ValidTagOpensAFrame :
    (base.ps = .readCommand ∧ validTag base.cfg 0x01 = true ∧ base.held = false ∧ base.exhausted = false) ∧
    ∀ s : State, s = { lowState with ps := .readCommand } →
      s.ps = .readCommand ∧ validTag s.cfg 0x09 = true ∧ s.held = true ∧ s.cur < s.cfg.nPackets := by
  refine ⟨by decide, ?_⟩
  rintro s rfl
  decide
theorem witness_TagRowsOpenAFrame : base.ps = .readCommand ∧ base.held = false ∧ base.exhausted = false ∧
    (Instr.resetAnswer .irx, (0x09 : Byte)) ∈ tagRows .irx ∧ validTag base.cfg 0x09 = true := by decide
theorem witness_LowLengthByteIsStored : lowState.ps = .readLenLow ∧ lowState.cur < lowState.cfg.nPackets := by decide
theorem witness_parserOwns : parserOwns (highState 1) ∧ parserOwns queueFull ∧ parserOwns dataState ∧
    parserOwns dataFull := by
  unfold parserOwns; decide
theorem witness_HighLengthByteDecides :
    (highState 1).ps = .readLenHigh ∧ queueFull.ps = .readLenHigh ∧
    (highState 1).cfg.maxPayload < lengthWith 0x02 (highState 1) ∧
    (lengthWith 0 (highState 0) = 0 ∧ (highState 0).pq.count 5 ≠ 5) ∧
    (lengthWith 0 queueFull = 0 ∧ queueFull.pq.count queueFull.cfg.pqCap = queueFull.cfg.pqCap) ∧
    (lengthWith 0 (highState 1) = 1 ∧ lengthWith 0x02 (highState 0) = (highState 0).cfg.maxPayload) := by decide
theorem witness_PayloadByteIsStored : dataState.ps = .readData ∧ dataState.cnt.toNat < dataState.cfg.maxPayload ∧
    (∀ s : State, s = { dataState with cnt := 1 } → s.cnt + 1 ≠ s.length s.cur) ∧
    (dataState.cnt + 1 = dataState.length dataState.cur ∧ dataState.pq.count 5 ≠ 5) ∧
    (dataFull.cnt + 1 = dataFull.length dataFull.cur ∧ dataFull.pq.count 2 = 2 ∧ dataFull.cfg.pqCap = 2) := by
  refine ⟨by decide, by decide, ?_, by decide, by decide⟩
  rintro s rfl
  decide
theorem witness_EmitPutsOrReleases : dataState.pq.count dataState.cfg.pqCap ≠ dataState.cfg.pqCap ∧
    dataFull.pq.count dataFull.cfg.pqCap = dataFull.cfg.pqCap := by decide
theorem witness_AbortReleases : parserOwns (highState 1) := witness_parserOwns.1
theorem witness_RxByteNeverFaults : BlockInv (highState 0xFF) := blockInv_highState
theorem witness_ParserFollowsTransitionTable : BlockInv dataState ∧ ∃ t, exec (.rxByte .irx 3) dataState = .next t :=
  ⟨blockInv_dataState, _, rfl⟩
theorem witness_OneDropPerByte : (∃ t, exec (.rxByte .irx 0) queueFull = .next t) ∧
    (∃ t, exec (.rxByte .irx 0) exhausted = .next t) ∧ exhausted.ps = .readCommand ∧
    validTag exhausted.cfg 0 = false := ⟨⟨_, rfl⟩, ⟨_, rfl⟩, by decide, by decide⟩
theorem witness_RxByteTouchesParserPoolAndPq : ∃ t, exec (.rxByte .irx 3) dataState = .next t := ⟨_, rfl⟩
theorem witness_OnlyBytesAndResetMoveTheParser :
    (∃ t, exec (.edge .igpio 7 true) lowState = .next t) ∧ movesParser (.edge .igpio 7 true) = false ∧
    (∃ t, exec (.poolRelease .irx 0) lowState = .next t) ∧ movesParser (.poolRelease .irx 0) = false :=
  ⟨⟨_, rfl⟩, rfl, ⟨_, rfl⟩, rfl⟩
theorem witness_FrameIsReceivedWhole : BlockInv base ∧ base.ps = .readCommand ∧ validTag base.cfg 0x09 = true ∧
    (List.replicate 512 (0 : Byte)).length ≤ base.cfg.maxPayload ∧ ([] : List Byte).length ≤ base.cfg.maxPayload ∧
    base.exhausted = false ∧ base.pq.count base.cfg.pqCap < base.cfg.pqCap :=
  ⟨blockInv_base, by decide, by decide, by rw [List.length_replicate]; decide, by decide, by decide, by decide⟩
theorem witness_ZerosEndAnyFrame : BlockInv (highState 0xFF) ∧ BlockInv dataFull := ⟨blockInv_highState, blockInv_dataFull⟩
theorem witness_AllocTakesAFreeBuffer : exhausted.exhausted = true ∧ base.exhausted = false := by decide
theorem witness_EveryFreeBufferCanBeChosen : ∀ s : State, s = { base with allocChoice := [4] } →
    4 < s.cfg.nPackets ∧ s.isFree 4 = true ∧ s.allocChoice.head? = some 4 := by
  rintro s rfl
  decide
theorem witness_TwoAllocationsDiffer : Shape base ∧ ∃ t u, exec (.poolAlloc .irx) base = .next t ∧ t.out = .handle 0 ∧
    exec (.poolAlloc .irx) t = .next u ∧ u.out = .handle 1 := ⟨blockInv_base.1, _, _, rfl, rfl, rfl, rfl⟩
theorem witness_ReleaseFreesOrFaults : base.cfg.nPackets ≤ 5 ∧
    ((dispatcherWith 8 0 []).owner 0 = releaser .wevt ∧ Ctx.wevt ≠ .irx ∧ Ctx.wevt ≠ .wdisp) ∧ (4 < base.cfg.nPackets ∧ base.isFree 4 = true) ∧
    (0 < oneQueued.cfg.nPackets ∧ oneQueued.isFree 0 = false ∧ oneQueued.owner 0 ≠ releaser .wdisp ∧
      oneQueued.owner 0 ≠ releaser .irx) ∧
    (lowState.isFree 0 = false ∧ lowState.owner 0 = releaser .irx) ∧
    ((dispatcherWith 8 0 []).isFree 0 = false ∧ (dispatcherWith 8 0 []).owner 0 = releaser .wdisp) := by decide
theorem witness_BuffersAreConserved : BlockInv queueFull := blockInv_queueFull
theorem witness_TryPutStoresUnlessFull : exhausted.pq.count exhausted.cfg.pqCap = exhausted.cfg.pqCap ∧
    base.pq.count base.cfg.pqCap ≠ base.cfg.pqCap ∧ eventsFull.evq.count eventsFull.cfg.eqCap = eventsFull.cfg.eqCap ∧
    base.evq.count base.cfg.eqCap ≠ base.cfg.eqCap := by decide
theorem witness_GetReturnsTheOldest : exhausted.pq.Wf exhausted.cfg.pqCap ∧ exhausted.queued = [0, 1, 2, 3, 4] ∧
    oneEvent.evq.Wf oneEvent.cfg.eqCap ∧ oneEvent.evq.items oneEvent.cfg.eqCap = [0x10005] := by
  unfold Queue.Wf; decide
theorem witness_QueueRefinesFifo : exhausted.pq.Wf 5 ∧ (exhausted.pq.items 5).length = 5 ∧ eventsFull.evq.Wf 5 ∧ (eventsFull.evq.items 5).length = 5 ∧ oneEvent.evq.Wf 5 ∧
    (oneEvent.evq.items 5).length ≠ 5 ∧ oneEvent.evq.items 5 = [0x10005] ∧ base.evq.Wf 5 ∧ base.evq.items 5 = [] := by
  unfold Queue.Wf; decide
theorem witness_PacketQueueNeverFullForTheParser : BlockInv dataState ∧ dataState.held = true ∧
    dataState.cfg.nPackets ≤ dataState.cfg.pqCap := ⟨blockInv_dataState, by decide, by decide⟩
theorem witness_GetOnEmptyQueueHolds : base.pq.count base.cfg.pqCap = 0 ∧ base.evq.count base.cfg.eqCap = 0 := by decide
theorem witness_EdgeQueuesOrDrops : base.evq.count base.cfg.eqCap ≠ base.cfg.eqCap ∧
    eventsFull.evq.count eventsFull.cfg.eqCap = eventsFull.cfg.eqCap := by decide
theorem witness_EventWordRoundTrip : (-32768 : Int) ≤ -32768 ∧ (32767 : Int) ≤ 32767 := by decide
theorem witness_EdgeCommutesWithRxByte : ∃ s1 s2, exec (.rxByte .irx 3) dataState = .next s1 ∧
    exec (.edge .igpio 7 true) s1 = .next s2 := ⟨_, _, rfl, rfl⟩
theorem witness_BufReadReturnsTheField : base.cfg.nPackets ≤ 5 ∧ (0 < oneQueued.cfg.nPackets ∧ oneQueued.owner 0 ≠ .worker) ∧
    Ctx.irx ≠ .wdisp ∧
    ((dispatcherWith 5 3 [7, 0, 3]).owner 0 = .worker ∧ 0 < (dispatcherWith 5 3 [7, 0, 3]).cfg.nPackets ∧
      (511 : Half).toNat < (dispatcherWith 5 3 [7, 0, 3]).cfg.maxPayload ∧
      (2 : Half).toNat < ((dispatcherWith 5 3 [7, 0, 3]).length 0).toNat) := by decide
theorem witness_WrongContextFaults : (0 < (dispatcherWith 8 0 []).cfg.nPackets ∧ (dispatcherWith 8 0 []).isFree 0 = false ∧
      (dispatcherWith 8 0 []).owner 0 = .worker) ∧ Ctx.reentry ≠ .irx ∧ Ctx.reentry ≠ .wdisp ∧ Ctx.reentry ≠ .igpio ∧
    Ctx.reentry ≠ .wevt := by decide
theorem witness_StateSplitsByContext : (∃ t, exec (.edge .igpio 7 true) lowState = .next t) ∧
    caller (.edge .igpio 7 true) = .igpio ∧ (∃ t, exec (.rxByte .irx 3) dataState = .next t) ∧
    caller (.rxByte .irx 3) = .irx ∧ (∃ t, exec (.pqGet .wdisp) exhausted = .next t) ∧ caller (.pqGet .wdisp) = .wdisp ∧
    (∃ t, exec (.eqGet .wevt) oneEvent = .next t) ∧ caller (.eqGet .wevt) = .wevt :=
  ⟨⟨_, rfl⟩, rfl, ⟨_, rfl⟩, rfl, ⟨_, rfl⟩, rfl, ⟨_, rfl⟩, rfl⟩
theorem witness_HandleNamesABuffer : 4 < base.cfg.nPackets ∧ base.cfg.nPackets ≤ 5 := by decide
theorem witness_dispatcherHolds (c : Byte) (len : Half) (p : List Byte) :
    dispatcherHolds (dispatcherWith c len p) 0 c := ⟨rfl, Nat.zero_lt_succ 4, rfl, rfl⟩
theorem witness_SpiSetupIsDispatched : ((dispatcherWith 1 6 [0x40, 0x42, 0x0F, 0, 0, 5]).length 0).toNat < 7 ∧
    7 ≤ ((dispatcherWith 1 7 [0x40, 0x42, 0x0F, 0, 0, 5, 0]).length 0).toNat := by decide
theorem witness_SpiTransferIsDispatched : ((dispatcherWith 3 1 [0x0A]).length 0).toNat < 2 ∧
    2 ≤ ((dispatcherWith 3 2 [0x0A, 0]).length 0).toNat ∧
    ((dispatcherWith 3 2 [0x0A, 0]).length 0).toNat ≤ (dispatcherWith 3 2 [0x0A, 0]).cfg.maxPayload := by decide
theorem witness_InterruptRegisterIsDispatched : (dispatcherWith 5 2 [5, 0]).length 0 ≠ 3 ∧
    ((dispatcherWith 5 3 [5, 0, 0]).payload 0 2).toNat < 1 ∧ 3 < ((dispatcherWith 5 3 [5, 0, 4]).payload 0 2).toNat ∧
    ((dispatcherWith 5 3 [5, 0, 3]).length 0 = 3 ∧ 1 ≤ ((dispatcherWith 5 3 [5, 0, 3]).payload 0 2).toNat ∧
      ((dispatcherWith 5 3 [5, 0, 3]).payload 0 2).toNat ≤ 3) ∧
    ((dispatcherWith 5 3 [5, 0, 1]).payload 0 2).toNat = 1 := by decide
theorem witness_WireResetResetsAdaptersOnly : dispatcherHolds (dispatcherWith 8 2 [0x0A, 0]) 0 0x08 :=
  witness_dispatcherHolds ..
theorem witness_UnknownTagDrawsNoAnswer :
    (∀ r ∈ unknownRows, dispatcherHolds (dispatcherWith r.2 1 [0x0A]) 0 r.2) ∧
    dispatcherHolds (dispatcherWith 0x0B 0 []) 0 (0b0000101#7 ++ 1#1) ∧
    dispatcherHolds (dispatcherWith 0x0C 0 []) 0 (0b000011#6 ++ 0#2) ∧
    dispatcherHolds (dispatcherWith 0x1F 0 []) 0 (0b0001#4 ++ 15#4) ∧
    dispatcherHolds (dispatcherWith 0x20 0 []) 0 (0b001#3 ++ 0#5) ∧
    dispatcherHolds (dispatcherWith 0x7F 0 []) 0 (0b01#2 ++ 63#6) ∧
    dispatcherHolds (dispatcherWith 0xFF 0 []) 0 (0b1#1 ++ 127#7) :=
  ⟨fun _ _ => witness_dispatcherHolds .., witness_dispatcherHolds .., witness_dispatcherHolds ..,
    witness_dispatcherHolds .., witness_dispatcherHolds .., witness_dispatcherHolds .., witness_dispatcherHolds ..⟩
theorem witness_DispatcherSendsItsAnswer :
    (∀ w, (answering w).wdisp = .answering 0 ⟨9, [1]⟩ ∧ (answering w).writer = w) ∧
    (Instr.resetAnswer .wdisp, (0x09 : Byte)) ∈ answerRows ∧ (⟨.wevt, [1]⟩ : Writer).holder ≠ .wdisp :=
  ⟨fun _ => ⟨rfl, rfl⟩, by decide, by decide⟩
theorem witness_EventWorkerComposesTheFrame : ∀ s : State, s = { base with wevt := .holding 0x0001FFFF } →
    s.wevt = .holding 0x0001FFFF := by
  rintro s rfl
  rfl
theorem witness_EventWorkerSendsItsFrame :
    (∀ w, (sending w).wevt = .sending ⟨7, [5, 0, 1]⟩ ∧ (sending w).writer = w) ∧
    (⟨.wdisp, [1]⟩ : Writer).holder ≠ .wevt := ⟨fun _ => ⟨rfl, rfl⟩, by decide⟩
theorem witness_DispatcherRunsItsLoop : (dispatcherHolds (dispatcherWith 1 0 []) 0 1 ∧
      (Instr.wireReset .wdisp, (8 : Byte)) ∈ tagRows .wdisp ∧ (1 : Byte) ≠ 8) ∧ ∀ rest : List Txn,
    (∀ s : State, s = { exhausted with trace := loopTxn .wdisp :: rest } →
      s.trace = loopTxn .wdisp :: rest ∧ s.wdisp = .idle ∧ s.pq.count s.cfg.pqCap ≠ 0) ∧
    (∀ s : State, s = { dispatcherWith 8 0 [] with trace := loopTxn .wdisp :: rest } →
      s.wdisp = .holding 0 ∧ (Instr.wireReset .wdisp, s.command 0) ∈ tagRows .wdisp) ∧
    (∀ s : State, s = { answering none with trace := loopTxn .wdisp :: rest } →
      s.wdisp = .answering 0 ⟨9, [1]⟩ ∧ s.lockBusy .wdisp = false ∧ (Instr.resetAnswer .wdisp, (9 : Byte)) ∈ answerRows) ∧
    ∀ s : State, s = { dispatcherWith 8 0 [] with wdisp := .answered 0, trace := loopTxn .wdisp :: rest } →
      s.wdisp = .answered 0 := by
  refine ⟨⟨witness_dispatcherHolds .., by decide, by decide⟩, fun rest => ?_⟩
  refine ⟨?_, ?_, ?_, ?_⟩ <;> rintro s rfl
  · exact ⟨rfl, rfl, show exhausted.pq.count 5 ≠ 0 by decide⟩
  · exact ⟨rfl, .tail _ (.tail _ (.tail _ (.tail _ (.tail _ (.tail _ (.tail _ (.head _)))))))⟩
  · exact ⟨rfl, rfl, by decide⟩
  · rfl
theorem witness_EventWorkerRunsItsLoop : ∀ rest : List Txn,
    (∀ s : State, s = { oneEvent with trace := loopTxn .wevt :: rest } → s.wevt = .idle ∧ s.evq.count s.cfg.eqCap ≠ 0) ∧
    (∀ s : State, s = { base with wevt := .holding 0x10005, trace := loopTxn .wevt :: rest } → s.wevt = .holding 0x10005) ∧
    ∀ s : State, s = { sending none with trace := loopTxn .wevt :: rest } →
      s.wevt = .sending ⟨7, [5, 0, 1]⟩ ∧ s.lockBusy .wevt = false := by
  intro rest
  refine ⟨?_, ?_, ?_⟩ <;> rintro s rfl
  · exact ⟨rfl, show oneEvent.evq.count 5 ≠ 0 by decide⟩
  · rfl
  · exact ⟨rfl, rfl⟩
theorem witness_StepRunsTheDecodedOperation : ∀ s : State, s = { base with trace := rxLine [0x05] } →
    s.trace = { port := .rx, ctx := .irx, data := 5 } :: [] ∧
    decode s.cfg s.ps { port := .rx, ctx := .irx, data := 5 } = .ok (.interruptRegister .irx) ∧
    wellFormed s.cfg (.interruptRegister .irx) = true ∧ waits (.interruptRegister .irx) s = false := by
  rintro s rfl
  decide
theorem witness_HeldWorkerMakesNoStep : ∀ (s : State) (t u : Txn),
    s = { base with trace := getEqLine ++ edgeLine 5 true } →
    t = { port := .eqGet, ctx := .wevt, data := 0 } → u = { port := .edge, ctx := .igpio, data := 0x10005 } →
    fetch s t = .ok (.eqGet .wevt) ∧ waits (.eqGet .wevt) s = true ∧ s.trace = t :: ([] ++ u :: []) ∧ u.ctx ≠ t.ctx ∧
    fetch s u = .ok (.edge .igpio 5 true) ∧ waits (.edge .igpio 5 true) s = false := by
  rintro s t u rfl rfl rfl
  decide
theorem witness_StepKeepsParametersAndOrder : ∃ t, step { base with trace := edgeLine 5 true } = .next t := ⟨_, rfl⟩
theorem witness_DecodeOfEncode : wellFormed .default (.bufRead .wdisp 7 (.payload 511)) = true ∧
    wellFormed .default (.poolRelease .wdisp 0) = true := by decide
theorem witness_DecodedIsWellFormed : txn .rel .wdisp 7 = .ok (.poolRelease .wdisp 7) := by decide
theorem witness_BootHasShape : Params.default.ok := by decide
theorem witness_StepKeepsShape : Shape stepping ∧ ∃ t, step stepping = .next t := ⟨blockInv_dataFull.1, _, rfl⟩
theorem witness_StepKeepsBlockInvariants : BlockInv stepping ∧ PortsOnly stepping ∧ ∃ t, step stepping = .next t := by
  refine ⟨blockInv_dataFull, ?_, _, rfl⟩
  intro t ht
  rw [show stepping.trace = [{ port := .rx, ctx := .irx, data := 3 }] from rfl, List.mem_singleton] at ht
  subst ht
  rfl
theorem witness_OutboundIsWholeFrames : ∀ s : State,
    s = { sending (some ⟨.wevt, (⟨7, [5, 0, 1]⟩ : Frame).bytes⟩) with trace := [loopTxn .wevt] } →
    s.cfg.ok ∧ ComposedFit s ∧ WholeFrames s ∧ ∃ t, step s = .next t := by
  rintro s rfl
  have hf : Frame.Fits .default ⟨7, [5, 0, 1]⟩ := ⟨by decide, by decide⟩
  refine ⟨witness_BootHasShape, ⟨?_, ?_⟩, ⟨[⟨7, [5, 0, 1]⟩], ?_, rfl⟩, _, rfl⟩
  · rintro h f ⟨⟩
  · rintro f ⟨⟩; exact hf
  · rintro f (_ | ⟨_, ⟨⟩⟩); exact hf

end Sys2Proof.Tests
end

section
/-! PROOFS. What reset leaves has the shape of R10, whatever state it is applied to: RESET and power-on share it. -/

namespace Sys2Proof.Machine

/-- Reset leaves both pointers of a queue 0 (R27): its count is 0, so only the capacity and the slots have to be right. -/
theorem Queue.wf_of_pointers_zero {α : Type} {cap : Nat} {slot : List α} (hcap : 1 ≤ cap) (hlen : slot.length = cap) :
    Queue.Wf cap { slot := slot, wr := 0, rd := 0 } := by
  have hpos : 0 < 2 * cap := by omega
  have hcount : Queue.count cap { slot := slot, wr := 0, rd := 0 } = 0 := by simp [Queue.count]
  exact ⟨hlen, hpos, hpos, hcount.le.trans (Nat.zero_le cap)⟩

/-- The free values that reset leaves in the slots of `PQ` (R27) are cut to the width of a handle. -/
theorem State.afterReset_pq_slot_lt (s : State) (epoch : Nat) :
    ∀ x ∈ (s.afterReset epoch).pq.slot, x < 2 ^ s.cfg.handleW := by
  intro x hx
  obtain ⟨i, -, rfl⟩ := List.mem_map.1 hx
  exact Nat.mod_lt _ (Nat.two_pow_pos _)

/-- Reset needs only R3's constraints on the parameters, since it writes every register that `Shape` speaks of. -/
theorem State.afterReset_shape {s : State} (hok : s.cfg.ok) (epoch : Nat) : Shape (s.afterReset epoch) := by
  have ⟨_, _, _, hpq, heq, _⟩ := hok
  refine ⟨hok, ?free, ?own, ?cur, ?pq, s.afterReset_pq_slot_lt epoch, ?evq, ?memWf, ?memBound⟩
  case free => exact List.length_replicate
  case own => exact List.length_replicate
  case cur => exact Nat.mod_lt _ (Nat.two_pow_pos _)
  case pq => exact Queue.wf_of_pointers_zero hpq (by simp [State.afterReset])
  case evq => exact Queue.wf_of_pointers_zero heq (by simp [State.afterReset])
  case memWf => simp [Memory.wf, State.afterReset]
  case memBound => exact fun _ he => absurd he List.not_mem_nil

/-- Settles O56: power-on is a reset of a machine with the given parameters. -/
theorem bootHasShape : Obligations.BootHasShape :=
  fun _ hok => State.afterReset_shape hok 0

end Sys2Proof.Machine
end

section
/-! PROOFS. The laws of the bounded queue (R90 to R93): what its contents are after a put and after a get. The pointer
arithmetic of R91 is done here, once; the rest reads `Queue.items`. -/

namespace Sys2Proof.Machine

variable {α : Type} {cap : Nat} {q : Queue α}

/-- The queue after a successful TRY_PUT (R92). -/
def Queue.push (cap : Nat) (x : α) (q : Queue α) : Queue α :=
  { q with slot := q.slot.set (q.wr % cap) x, wr := (q.wr + 1) % (2 * cap) }

/-- The queue after a completed GET (R93). -/
def Queue.pop (cap : Nat) (q : Queue α) : Queue α := { q with rd := (q.rd + 1) % (2 * cap) }

/-- Advancing a pointer wraps it at `2·CAP` (R18). -/
theorem succ_mod_of_lt {p n : Nat} (h : p < n) : (p + 1) % n = if p + 1 = n then 0 else p + 1 := by
  split
  · next he => rw [he, Nat.mod_self]
  · exact Nat.mod_eq_of_lt (by omega)

theorem Queue.count_eq (hwr : q.wr < 2 * cap) (hrd : q.rd < 2 * cap) :
    q.count cap = if q.rd ≤ q.wr then q.wr - q.rd else q.wr + 2 * cap - q.rd := by
  rw [Queue.count]
  split
  · rw [show q.wr + 2 * cap - q.rd = q.wr - q.rd + 2 * cap by omega, Nat.add_mod_right]
    exact Nat.mod_eq_of_lt (by omega)
  · exact Nat.mod_eq_of_lt (by omega)

theorem Queue.Wf.cap_pos (h : q.Wf cap) : 0 < cap := by
  have ⟨_, hwr, _, _⟩ := h
  omega

theorem Queue.Wf.mod_lt_slots (h : q.Wf cap) (p : Nat) : p % cap < q.slot.length := by
  rw [h.1]
  exact Nat.mod_lt _ h.cap_pos

theorem Queue.count_push (h : q.Wf cap) (hfull : q.count cap ≠ cap) (x : α) :
    (q.push cap x).count cap = q.count cap + 1 := by
  have ⟨_, hwr, hrd, hle⟩ := h
  have hwr' : (q.push cap x).wr < 2 * cap := Nat.mod_lt _ (by omega)
  rw [Queue.count_eq hwr hrd] at hfull hle ⊢
  rw [Queue.count_eq (q := q.push cap x) hwr' hrd]
  simp only [Queue.push, succ_mod_of_lt hwr]
  split_ifs at * <;> omega

theorem Queue.count_pop (h : q.Wf cap) (hne : q.count cap ≠ 0) : (q.pop cap).count cap = q.count cap - 1 := by
  have ⟨_, hwr, hrd, hle⟩ := h
  have hrd' : (q.pop cap).rd < 2 * cap := Nat.mod_lt _ (by omega)
  rw [Queue.count_eq hwr hrd] at hne hle ⊢
  rw [Queue.count_eq (q := q.pop cap) hwr hrd']
  simp only [Queue.pop, succ_mod_of_lt hrd]
  split_ifs at * <;> omega

theorem Queue.Wf.push (h : q.Wf cap) (hfull : q.count cap ≠ cap) (x : α) : (q.push cap x).Wf cap := by
  have ⟨hlen, hwr, hrd, hle⟩ := h
  refine ⟨by simpa [Queue.push] using hlen, Nat.mod_lt _ (by omega), hrd, ?_⟩
  rw [Queue.count_push h hfull]
  omega

theorem Queue.Wf.pop (h : q.Wf cap) (hne : q.count cap ≠ 0) : (q.pop cap).Wf cap := by
  have ⟨hlen, hwr, hrd, hle⟩ := h
  refine ⟨hlen, hwr, Nat.mod_lt _ (by omega), ?_⟩
  rw [Queue.count_pop h hne]
  omega

/-- The slots of a well-formed queue cover every index of R91, so no element is lost. -/
theorem Queue.length_items (h : q.Wf cap) : (q.items cap).length = q.count cap := by
  have hslot : ∀ i, ∃ y, q.slot[(q.rd + i) % cap]? = some y := fun i =>
    ⟨_, List.getElem?_eq_getElem (h.mod_lt_slots _)⟩
  rw [Queue.items, List.length_filterMap_eq_countP, List.countP_eq_length.2, List.length_range]
  intro i _
  obtain ⟨y, hy⟩ := hslot i
  simp [hy]

/-- The slot a put writes is the one after the last element. -/
theorem Queue.wr_mod (h : q.Wf cap) : q.wr % cap = (q.rd + q.count cap) % cap := by
  have ⟨_, hwr, hrd, _⟩ := h
  rw [Queue.count_eq hwr hrd]
  split
  · rw [show q.rd + (q.wr - q.rd) = q.wr by omega]
  · rw [show q.rd + (q.wr + 2 * cap - q.rd) = q.wr + cap * 2 by omega, Nat.add_mul_mod_self_left]

/-- A put leaves the slots of the elements present alone. -/
theorem Queue.wr_mod_ne (h : q.Wf cap) (hfull : q.count cap ≠ cap) {i : Nat} (hi : i < q.count cap) :
    q.wr % cap ≠ (q.rd + i) % cap := by
  have ⟨_, _, _, hle⟩ := h
  rw [Queue.wr_mod h]
  intro heq
  have hmod : q.count cap % cap = i % cap := Nat.ModEq.add_left_cancel' q.rd heq
  rw [Nat.mod_eq_of_lt (by omega), Nat.mod_eq_of_lt (by omega)] at hmod
  omega

/-- R92, R100: TRY_PUT appends. -/
theorem Queue.items_push (h : q.Wf cap) (hfull : q.count cap ≠ cap) (x : α) :
    (q.push cap x).items cap = q.items cap ++ [x] := by
  have hold : ∀ i ∈ List.range (q.count cap),
      (q.push cap x).slot[((q.push cap x).rd + i) % cap]? = q.slot[(q.rd + i) % cap]? := fun i hi =>
    List.getElem?_set_ne (Queue.wr_mod_ne h hfull (List.mem_range.1 hi))
  have hnew : (q.push cap x).slot[((q.push cap x).rd + q.count cap) % cap]? = some x := by
    simp only [Queue.push, ← Queue.wr_mod h]
    exact List.getElem?_set_self (h.mod_lt_slots _)
  rw [Queue.items, Queue.count_push h hfull, List.range_succ, List.filterMap_append, List.filterMap_congr hold,
    Queue.items]
  simp [hnew]

/-- R93, R100: GET removes the head, which is the element in the slot of the consumer pointer. -/
theorem Queue.items_eq_cons (h : q.Wf cap) (hne : q.count cap ≠ 0) {x : α} (hx : q.slot[q.rd % cap]? = some x) :
    q.items cap = x :: (q.pop cap).items cap := by
  have hshift : ∀ i, ((q.rd + 1) % (2 * cap) + i) % cap = (q.rd + (i + 1)) % cap := fun i => by
    rw [Nat.add_mod, Nat.mod_mod_of_dvd _ (Nat.dvd_mul_left cap 2), ← Nat.add_mod, Nat.add_assoc, Nat.add_comm 1]
  obtain ⟨n, hn⟩ := Nat.exists_eq_succ_of_ne_zero hne
  rw [Queue.items, Queue.items, Queue.count_pop h hne, hn, List.range_succ_eq_map, List.filterMap_cons]
  simp [hx, Queue.pop, hshift, List.filterMap_map]

end Sys2Proof.Machine
end

section
/-! PROOFS. What the packet queue and the parser leave, in terms of a few named updates. -/

namespace Sys2Proof.Machine

/-! The packet queue with its ghost owners (R92, R93). -/

/-- `s` after a put of `x` that finds room in `PQ`. -/
def State.enqueue (s : State) (x : Nat) : State :=
  { s with pq := s.pq.push s.cfg.pqCap x, own := s.own.set x .queued }

/-- `s` after `x` is got from `PQ`, but for the dispatcher's own record. -/
def State.dequeue (s : State) (x : Nat) : State :=
  { s with pq := s.pq.pop s.cfg.pqCap, own := s.own.set x .worker }

/-! The parser. -/

/-- EMIT (R109) queues the buffer of the frame, or releases it. -/
theorem emitPacket_eq_next {s t : State} (h : emitPacket s = .next t) :
    (s.pq.count s.cfg.pqCap ≠ s.cfg.pqCap ∧ t = (s.enqueue s.cur).parserReset) ∨
    (s.cur < s.cfg.nPackets ∧ s.isFree s.cur = false ∧ s.owner s.cur = .parser ∧
      t = ((s.drop .queueFullFrame).giveBack s.cur).parserReset) := by
  rcases emitPacket_cases s with ⟨hroom, he⟩ | ⟨-, he⟩ <;> rw [he] at h
  · cases h
    exact .inl ⟨hroom, rfl⟩
  · obtain ⟨u, hu, ht⟩ := andThen_eq_next h
    obtain ⟨hlt, hfree, howner, rfl⟩ := release_eq_next.1 hu
    cases ht
    exact .inr ⟨hlt, hfree, howner, rfl⟩

/-- The length that high byte `b` completes (R111). -/
def State.lengthFrom (s : State) (b : Byte) : Half := b ++ (s.length s.cur).extractLsb' 0 8

/-- `s` with the next payload byte stored and counted (R112). -/
def State.storeNext (s : State) (b : Byte) : State :=
  { s.storePayload s.cur s.cnt.toNat b with cnt := s.cnt + 1 }

/-- Everything RX_BYTE can leave, in the order of R105: the four states of the parser, and in each the branches of its rule
(R106 to R112). -/
inductive Received (b : Byte) (s : State) : State → Prop
  | discarded (r : DropReason) : Received b s (s.drop r)
  | reopened (hheld : s.held = true) (hps : s.ps = .readCommand) (hcur : s.cur < s.cfg.nPackets) :
      Received b s { s.setCommand s.cur b with ps := .readLenLow }
  | opened {h : Nat} (hps : s.ps = .readCommand) (hheld : s.held = false) (htag : validTag s.cfg b = true)
      (hlt : h < s.cfg.nPackets) (hfree : s.isFree h = true) :
      Received b s { ({ s.takeBuffer h with cur := h, held := true }).setCommand h b with ps := .readLenLow }
  | lengthLow (hps : s.ps = .readLenLow) (hcur : s.cur < s.cfg.nPackets) :
      Received b s { s.setLength s.cur (b.setWidth 16) with ps := .readLenHigh }
  | oversize {t : State} (hps : s.ps = .readLenHigh) (hcur : s.cur < s.cfg.nPackets)
      (ht : abortFrame ((s.setLength s.cur (s.lengthFrom b)).drop .oversizeLength) = .next t) : Received b s t
  | empty {t : State} (hps : s.ps = .readLenHigh) (hcur : s.cur < s.cfg.nPackets) (hzero : s.lengthFrom b = 0)
      (ht : emitPacket (s.setLength s.cur (s.lengthFrom b)) = .next t) : Received b s t
  | lengthHigh (hps : s.ps = .readLenHigh) (hcur : s.cur < s.cfg.nPackets) (hpos : s.lengthFrom b ≠ 0)
      (hmax : (s.lengthFrom b).toNat ≤ s.cfg.maxPayload) :
      Received b s { s.setLength s.cur (s.lengthFrom b) with cnt := 0, ps := .readData }
  | lastByte {t : State} (hps : s.ps = .readData) (hcur : s.cur < s.cfg.nPackets) (hcnt : s.cnt.toNat < s.cfg.maxPayload)
      (ht : emitPacket (s.storeNext b) = .next t) : Received b s t
  | dataByte (hps : s.ps = .readData) (hcur : s.cur < s.cfg.nPackets) (hcnt : s.cnt.toNat < s.cfg.maxPayload)
      (hmore : s.cnt + 1 ≠ (s.storeNext b).length s.cur) : Received b s (s.storeNext b)

theorem storeCommand_eq_next {b : Byte} {s t : State} (h : storeCommand b s = .next t) :
    s.cur < s.cfg.nPackets ∧ t = { s.setCommand s.cur b with ps := .readLenLow } := by
  obtain ⟨hcur, hr⟩ := withCur_eq_next h
  cases hr
  exact ⟨hcur, rfl⟩

theorem received_readCommand {b : Byte} {s t : State} (hps : s.ps = .readCommand) (h : rxReadCommand b s = .next t) :
    Received b s t := by
  rcases rxReadCommand_cases b s with ⟨-, he⟩ | ⟨-, hheld, he⟩ | ⟨-, -, -, he⟩ | ⟨x, htag, hheld, hlt, hfree, he⟩ <;>
    rw [he] at h
  · cases h
    exact .discarded _
  · obtain ⟨hcur, rfl⟩ := storeCommand_eq_next h
    exact .reopened hheld hps hcur
  · cases h
    exact .discarded _
  · obtain ⟨-, rfl⟩ := storeCommand_eq_next h
    exact .opened hps hheld htag hlt hfree

theorem received_readLenHigh {b : Byte} {s t : State} (hps : s.ps = .readLenHigh) (h : rxReadLenHigh b s = .next t) :
    Received b s t := by
  obtain ⟨hcur, hr⟩ := withCur_eq_next h
  split at hr
  · exact .oversize hps hcur hr
  · next hmax =>
    split at hr
    · exact .empty hps hcur ‹_› hr
    · cases hr
      exact .lengthHigh hps hcur ‹_› (not_lt.1 hmax)

theorem received_readData {b : Byte} {s t : State} (hps : s.ps = .readData) (h : rxReadData b s = .next t) :
    Received b s t := by
  obtain ⟨hcur, hr⟩ := withCur_eq_next h
  split at hr
  · cases hr
  · next hcnt =>
    split at hr
    · exact .lastByte hps hcur (not_le.1 hcnt) hr
    · cases hr
      exact .dataByte hps hcur (not_le.1 hcnt) ‹_›

theorem receive_eq_next {b : Byte} {s t : State} (h : receive b s = .next t) : Received b s t := by
  simp only [receive] at h
  split at h
  · exact received_readCommand ‹_› h
  · obtain ⟨hcur, hr⟩ := withCur_eq_next h
    cases hr
    exact .lengthLow ‹_› hcur
  · exact received_readLenHigh ‹_› h
  · exact received_readData ‹_› h

end Sys2Proof.Machine
end

section
/-! PROOFS. What an operation can do to the block, once for all rows of the table. The invariants of section 9 read neither
the environment nor the ghost log nor the inputs, so these are erased first (`State.blockPart`); what is left is changed by
a few operations only (`Effect`), and each invariant is a case analysis over those. -/

namespace Sys2Proof.Machine

/-- The state with the environment, the ghost log, the inputs but the trace, the port's result and the count of stores
erased: what the invariants of spec/10_state.md section 9 and the trace's order are about. -/
def State.blockPart (s : State) : State :=
  { s with log := [], wdisp := .idle, wevt := .idle, writer := none, tx := [], spiPins := [], gpioPins := [], calls := []
           replies := [], allocChoice := [], out := .none, stores := 0 }

/-! What leaves the block as it was. -/

theorem answer_blockPart {o : PortOut} {s t u : State} (h : answer o u = .next t) (hu : u.blockPart = s.blockPart) :
    t.blockPart = s.blockPart := by
  cases h
  exact hu

theorem State.spiSetup_blockPart (s : State) (freq : Word) (mode : Byte) (pins : List Half) :
    (s.spiSetup freq mode pins).2.blockPart = s.blockPart := by
  simp only [State.spiSetup]
  split <;> rfl

theorem State.gpioRegister_blockPart (s : State) (pin : Half) (mode : Byte) :
    (s.gpioRegister pin mode).2.blockPart = s.blockPart := by
  simp only [State.gpioRegister]
  split <;> rfl

theorem sendStep_blockPart {c : Ctx} {f : Frame} {done : State → State} {s t : State}
    (hdone : ∀ u, (done u).blockPart = u.blockPart) (h : sendStep c f done s = .next t) : t.blockPart = s.blockPart := by
  rcases sendStep_cases c f done s with ⟨-, hs⟩ | ⟨w, -, -, hs⟩ | ⟨-, hs⟩ | ⟨b, bs, -, hs⟩ <;> rw [hs] at h
  · exact answer_blockPart h rfl
  · exact answer_blockPart h rfl
  · exact answer_blockPart h (hdone _)
  · exact answer_blockPart h rfl

/-! The arms of the dispatcher (R163 to R167) and the event worker (R170) write their own records and the adapters'. -/

theorem dispatchSpiSetup_blockPart {tag : Byte} {s t : State} (h : dispatchSpiSetup tag s = .next t) :
    t.blockPart = s.blockPart := by
  obtain ⟨p, -, -, -, -, harm⟩ := dispatching_eq_next.1 h
  split at harm
  · exact answer_blockPart harm rfl
  · exact answer_blockPart harm (s.spiSetup_blockPart _ _ _)

theorem dispatchSpiTransfer_blockPart {tag : Byte} {s t : State} (h : dispatchSpiTransfer tag s = .next t) :
    t.blockPart = s.blockPart := by
  obtain ⟨p, -, -, -, -, harm⟩ := dispatching_eq_next.1 h
  split at harm <;> exact answer_blockPart harm rfl

theorem dispatchInterruptRegister_blockPart {tag : Byte} {s t : State} (h : dispatchInterruptRegister tag s = .next t) :
    t.blockPart = s.blockPart := by
  obtain ⟨p, -, -, -, -, harm⟩ := dispatching_eq_next.1 h
  split at harm
  · exact answer_blockPart harm rfl
  · split at harm
    · exact answer_blockPart harm rfl
    · exact answer_blockPart harm (s.gpioRegister_blockPart _ _)

theorem dispatchWireReset_blockPart {tag : Byte} {s t : State} (h : dispatchWireReset tag s = .next t) :
    t.blockPart = s.blockPart := by
  obtain ⟨p, -, -, -, -, harm⟩ := dispatching_eq_next.1 h
  exact answer_blockPart harm rfl

theorem dispatchUnknown_blockPart {tag : Byte} {s t : State} (h : dispatchUnknown tag s = .next t) :
    t.blockPart = s.blockPart := by
  obtain ⟨p, -, -, -, -, harm⟩ := dispatching_eq_next.1 h
  exact answer_blockPart harm rfl

theorem dispatchOrSend_blockPart {tag : Byte} {s t : State} (h : dispatchOrSend tag s = .next t) :
    t.blockPart = s.blockPart := by
  simp only [dispatchOrSend] at h
  split at h
  · split at h
    · exact sendStep_blockPart (by intro u; rfl) h
    · cases h
  all_goals exact dispatchUnknown_blockPart h

theorem forwardEvent_blockPart {s t : State} (h : forwardEvent s = .next t) : t.blockPart = s.blockPart := by
  simp only [forwardEvent] at h
  split at h
  · exact sendStep_blockPart (by intro u; rfl) h
  all_goals cases h

theorem decodePair_blockPart (pin : Half) (rising : Bool) (s : State) :
    (decodePair pin rising s).blockPart = s.blockPart := by
  simp only [decodePair]
  split
  · split <;> rfl
  all_goals rfl

theorem fieldRead_blockPart {s t : State} {h : Nat} {f : BufField} (hr : fieldRead s h f = .next t) :
    t.blockPart = s.blockPart := by
  cases f with
  | command => exact answer_blockPart hr rfl
  | length => exact answer_blockPart hr rfl
  | payload off =>
    simp only [fieldRead] at hr
    split at hr
    · cases hr
    · split at hr <;> exact answer_blockPart hr rfl

/-! The operations that change the block. -/

/-- What operation `i` leaves of the block of `s`, up to what `State.blockPart` erases, where it completes. The last six
constructors are the operations that a test harness presents by themselves (R99). -/
inductive Effect (s : State) : Instr → State → Prop
  | kept (i : Instr) : Effect s i s
  | received {i : Instr} {b : Byte} {u : State} (hu : Received b s u) : Effect s i u
  | edge (pin : Half) (rising : Bool) (hroom : s.evq.count s.cfg.eqCap ≠ s.cfg.eqCap) :
      Effect s (.edge .igpio pin rising) { s with evq := s.evq.push s.cfg.eqCap (encodeEvent pin rising) }
  | pqGet {x : Nat} (hne : s.pq.count s.cfg.pqCap ≠ 0) (hx : s.pq.slot[s.pq.rd % s.cfg.pqCap]? = some x) :
      Effect s (.pqGet .wdisp) (s.dequeue x)
  | eqGet {ev : Word} (hne : s.evq.count s.cfg.eqCap ≠ 0) (hev : s.evq.slot[s.evq.rd % s.cfg.eqCap]? = some ev) :
      Effect s (.eqGet .wevt) { s with evq := s.evq.pop s.cfg.eqCap }
  | workerRelease {h : Nat} (hlt : h < s.cfg.nPackets) (hfree : s.isFree h = false) (howner : s.owner h = .worker) :
      Effect s (.poolRelease .wdisp h) (s.giveBack h)
  | reset : Effect s (.blockReset .platform) s.blockReset
  | alloc {h : Nat} (hlt : h < s.cfg.nPackets) (hfree : s.isFree h = true) :
      Effect s (.poolAlloc .irx) (s.takeBuffer h)
  | parserRelease {h : Nat} (hlt : h < s.cfg.nPackets) (hfree : s.isFree h = false) (howner : s.owner h = .parser) :
      Effect s (.poolRelease .irx h) (s.giveBack h)
  | pqPut (x : Nat) (hroom : s.pq.count s.cfg.pqCap ≠ s.cfg.pqCap) : Effect s (.pqTryPut .irx x) (s.enqueue x)
  | eqPut (ev : Word) (hroom : s.evq.count s.cfg.eqCap ≠ s.cfg.eqCap) :
      Effect s (.eqTryPut .igpio ev) { s with evq := s.evq.push s.cfg.eqCap ev }
  | emit {u : State} (hu : emitPacket s = .next u) : Effect s (.emit .irx) u
  | abort {u : State} (hu : abortFrame s = .next u) : Effect s (.abort .irx) u

/-- `t` is what operation `i` makes of `s`, as far as the block goes. -/
def BlockStep (s : State) (i : Instr) (t : State) : Prop := ∃ u, Effect s i u ∧ t.blockPart = u.blockPart

theorem BlockStep.of_kept {s t : State} (i : Instr) (h : t.blockPart = s.blockPart) : BlockStep s i t :=
  ⟨s, .kept i, h⟩

theorem BlockStep.of_silent {s t : State} {i : Instr} {r : Result} (h : silent r = .next t)
    (he : ∀ u, r = .next u → Effect s i u) : BlockStep s i t := by
  obtain ⟨u, hr, rfl⟩ := silent_eq_next h
  exact ⟨u, he u hr, rfl⟩

theorem BlockStep.of_answer {s t u : State} {i : Instr} {o : PortOut} (he : Effect s i u) (h : answer o u = .next t) :
    BlockStep s i t :=
  ⟨u, he, answer_blockPart h rfl⟩

/-- A row of the table that decodes a byte by position (R68) is the byte received. -/
theorem blockStep_atPosition {ps : ParserState} {row : Byte → State → Result} {b : Byte} {s t : State} {i : Instr}
    (hrow : s.ps = ps → row b s = receive b s) (h : silent (atPosition ps row b s) = .next t) : BlockStep s i t := by
  rw [atPosition_eq_receive hrow] at h
  exact .of_silent h fun _ hu => .received (receive_eq_next hu)

/-- A tag row, by who meets the byte: `IRX` receives it; to the dispatcher it is an arm. -/
theorem blockStep_tagByte {b : Byte} {arm : Byte → State → Result} {c : Ctx} {s t : State} {i : Instr}
    (harm : ∀ {t}, arm b s = .next t → t.blockPart = s.blockPart) (h : tagByte b arm c s = .next t) :
    BlockStep s i t := by
  cases c with
  | irx => exact blockStep_atPosition (fun hps => by simp [receive, hps]) h
  | wdisp => exact .of_kept _ (harm h)
  | igpio | wevt | platform | reentry => cases h

theorem blockStep_interruptEvent {c : Ctx} {s t : State} (h : execInterruptEvent c s = .next t) :
    BlockStep s (.interruptEvent c) t := by
  simp only [execInterruptEvent] at h
  split at h
  · exact .of_kept _ (forwardEvent_blockPart h)
  all_goals exact blockStep_tagByte dispatchUnknown_blockPart h

theorem blockStep_edge {c : Ctx} {pin : Half} {rising : Bool} {s t : State} (h : execEdge c pin rising s = .next t) :
    BlockStep s (.edge c pin rising) t := by
  obtain ⟨rfl, hr⟩ := onlyIn_eq_next h
  rcases eqPut_cases s (encodeEvent pin rising) with ⟨-, hp⟩ | ⟨hroom, hp⟩ <;> simp only [hp] at hr
  · exact .of_kept _ (answer_blockPart hr rfl)
  · exact .of_answer (.edge pin rising hroom) hr

theorem blockStep_poolAlloc {c : Ctx} {s t : State} (h : execPoolAlloc c s = .next t) : BlockStep s (.poolAlloc c) t := by
  obtain ⟨rfl, hr⟩ := onlyIn_eq_next h
  rcases allocate_cases s with ⟨-, ha⟩ | ⟨b, -, hlt, hfree, ha⟩ <;> simp only [ha] at hr
  · exact .of_kept _ (answer_blockPart hr rfl)
  · exact .of_answer (.alloc hlt hfree) hr

theorem blockStep_poolRelease {c : Ctx} {x : Nat} {s t : State} (h : execPoolRelease c x s = .next t) :
    BlockStep s (.poolRelease c x) t := by
  cases c with
  | irx =>
    refine .of_silent h fun u hu => ?_
    obtain ⟨hlt, hfree, howner, rfl⟩ := release_eq_next.1 hu
    exact .parserRelease hlt hfree howner
  | wdisp =>
    obtain ⟨u, hu, ht⟩ := andThen_eq_next h
    obtain ⟨hlt, hfree, howner, rfl⟩ := release_eq_next.1 hu
    exact ⟨_, .workerRelease hlt hfree howner, answer_blockPart ht rfl⟩
  | igpio | wevt | platform | reentry =>
    obtain ⟨_, -, ⟨⟩⟩ := andThen_eq_next h

theorem blockStep_pqGet {c : Ctx} {s t : State} (h : execPqGet c s = .next t) : BlockStep s (.pqGet c) t := by
  obtain ⟨rfl, hr⟩ := onlyIn_eq_next h
  split at hr
  · next x u hu =>
    obtain ⟨hne, hx, rfl⟩ := pqTake_eq_some hu
    exact ⟨_, .pqGet hne hx, answer_blockPart hr rfl⟩
  · exact .of_kept _ (answer_blockPart hr rfl)

theorem blockStep_eqGet {c : Ctx} {s t : State} (h : execEqGet c s = .next t) : BlockStep s (.eqGet c) t := by
  obtain ⟨rfl, hr⟩ := onlyIn_eq_next h
  split at hr
  · next ev u hu =>
    obtain ⟨hne, hev, rfl⟩ := eqTake_eq_some hu
    exact ⟨_, .eqGet hne hev, answer_blockPart hr rfl⟩
  · exact .of_kept _ (answer_blockPart hr rfl)

theorem blockStep_pqTryPut {c : Ctx} {x : Nat} {s t : State} (h : execPqTryPut c x s = .next t) :
    BlockStep s (.pqTryPut c x) t := by
  obtain ⟨rfl, hr⟩ := onlyIn_eq_next h
  rcases pqPut_cases s x with ⟨-, hp⟩ | ⟨hroom, hp⟩ <;> simp only [hp] at hr
  · exact .of_kept _ (answer_blockPart hr rfl)
  · exact .of_answer (.pqPut x hroom) hr

theorem blockStep_eqTryPut {c : Ctx} {ev : Word} {s t : State} (h : execEqTryPut c ev s = .next t) :
    BlockStep s (.eqTryPut c ev) t := by
  obtain ⟨rfl, hr⟩ := onlyIn_eq_next h
  rcases eqPut_cases s ev with ⟨-, hp⟩ | ⟨hroom, hp⟩ <;> simp only [hp] at hr
  · exact .of_kept _ (answer_blockPart hr rfl)
  · exact .of_answer (.eqPut ev hroom) hr

theorem blockStep_bufRead {c : Ctx} {x : Nat} {f : BufField} {s t : State} (h : execBufRead c x f s = .next t) :
    BlockStep s (.bufRead c x f) t := by
  obtain ⟨-, -, hread⟩ := readable_eq_next h
  obtain ⟨rfl, hr⟩ := onlyIn_eq_next hread
  exact .of_kept _ (fieldRead_blockPart hr)

theorem blockStep_handle {c : Ctx} {x : Nat} {s t : State} (h : execHandle c x s = .next t) :
    BlockStep s (.handle c x) t := by
  simp only [execHandle] at h
  split at h
  · cases h
  · cases c with
    | irx | wdisp => exact .of_kept _ (answer_blockPart h rfl)
    | igpio | wevt | platform | reentry => cases h

theorem blockStep_eventWord {c : Ctx} {rising : Bool} {pin : Half} {s t : State}
    (h : execEventWord c rising pin s = .next t) : BlockStep s (.eventWord c rising pin) t := by
  cases c with
  | igpio => exact .of_kept _ (answer_blockPart h rfl)
  | wevt => exact .of_kept _ (answer_blockPart h (decodePair_blockPart _ _ _))
  | irx | wdisp | platform | reentry => cases h

/-- Everything an operation of the table can do to the block. -/
theorem exec_blockStep {i : Instr} {s t : State} (h : exec i s = .next t) : BlockStep s i t := by
  cases i with
  | spiSetup c => exact blockStep_tagByte dispatchSpiSetup_blockPart h
  | spiTransfer c => exact blockStep_tagByte dispatchSpiTransfer_blockPart h
  | interruptRegister c => exact blockStep_tagByte dispatchInterruptRegister_blockPart h
  | wireReset c => exact blockStep_tagByte dispatchWireReset_blockPart h
  | interruptEvent c => exact blockStep_interruptEvent h
  | spiSetupAnswer c | spiTransferAnswer c | interruptRegisterAnswer c | resetAnswer c =>
    exact blockStep_tagByte dispatchOrSend_blockPart h
  | invalidTag00 c | invalidTag0A c x | invalidTag0C c x | invalidTag10 c x | invalidTag20 c x | invalidTag40 c x
  | invalidTag80 c x => exact blockStep_tagByte dispatchUnknown_blockPart h
  | rxReadLenLow b | rxReadLenHigh b | rxReadData b =>
    exact blockStep_atPosition (fun hps => by simp [receive, hps]) h
  | rxByte c b => exact .of_silent (onlyIn_eq_next h).2 fun _ hu => .received (receive_eq_next hu)
  | edge c pin rising => exact blockStep_edge h
  | poolAlloc c => exact blockStep_poolAlloc h
  | poolRelease c x => exact blockStep_poolRelease h
  | pqTryPut c x => exact blockStep_pqTryPut h
  | pqGet c => exact blockStep_pqGet h
  | eqTryPut c ev => exact blockStep_eqTryPut h
  | eqGet c => exact blockStep_eqGet h
  | bufRead c x f => exact blockStep_bufRead h
  | blockReset c =>
    obtain ⟨rfl, hr⟩ := onlyIn_eq_next h
    exact .of_answer .reset hr
  | emit c =>
    obtain ⟨rfl, hr⟩ := onlyIn_eq_next h
    exact .of_silent hr fun _ => .emit
  | abort c =>
    obtain ⟨rfl, hr⟩ := onlyIn_eq_next h
    exact .of_silent hr fun _ => .abort
  | handle c x => exact blockStep_handle h
  | eventWord c rising pin => exact blockStep_eventWord h

end Sys2Proof.Machine
end

section
/-! PROOFS. What the trace can present, and what a step does to the block. -/

namespace Sys2Proof.Machine

/-- The picked transaction is taken out of the trace, and nothing else is. -/
theorem pick_eq_some {s : State} {blocked : List Ctx} {tr rest : List Txn} {x : Txn}
    (h : pick s blocked tr = some (x, rest)) : ∃ before after, tr = before ++ x :: after ∧ rest = before ++ after := by
  induction tr generalizing blocked rest with
  | nil => cases h
  | cons y ys ih =>
    simp only [pick] at h
    split at h
    · obtain ⟨⟨z, r⟩, hp, he⟩ := Option.map_eq_some_iff.1 h
      cases he
      obtain ⟨before, after, rfl, rfl⟩ := ih hp
      exact ⟨y :: before, after, rfl, rfl⟩
    · cases h
      exact ⟨[], ys, rfl, rfl⟩

theorem noOperand_eq_ok {data : Nat} {i j : Instr} (h : noOperand data j = .ok i) : i = j := by
  simp only [noOperand] at h
  split at h <;> cases h
  rfl

theorem byteOperand_eq_ok {data : Nat} {i : Instr} {k : Byte → Instr} (h : byteOperand data k = .ok i) :
    ∃ b, i = k b := by
  simp only [byteOperand] at h
  split at h <;> cases h
  exact ⟨_, rfl⟩

theorem handleOperand_eq_ok {p : Params} {data : Nat} {i : Instr} {k : Nat → Instr}
    (h : handleOperand p data k = .ok i) : data < 2 ^ p.handleW ∧ i = k data := by
  simp only [handleOperand] at h
  split at h <;> cases h
  exact ⟨of_decide_eq_true ‹_›, rfl⟩

theorem decodeBufRead_eq_ok {p : Params} {c : Ctx} {data : Nat} {i : Instr} (h : decodeBufRead p c data = .ok i) :
    ∃ x f, i = .bufRead c x f := by
  simp only [decodeBufRead] at h
  split_ifs at h <;> cases h <;> exact ⟨_, _, rfl⟩

theorem decodeWord_eq_ok {c : Ctx} {data : Nat} {i : Instr} (h : decodeWord c data = .ok i) :
    ∃ rising pin, i = .eventWord c rising pin := by
  simp only [decodeWord] at h
  split_ifs at h
  cases h
  exact ⟨_, _, rfl⟩

/-- Operation `i` is one that transaction `x` can be: an operation internal to the block comes from no port of R150 (R99,
R141), and the handle of a PQ.TRY_PUT fits its width (R76). -/
def Presents (p : Params) (x : Txn) : Instr → Prop
  | .poolAlloc _ | .eqTryPut _ _ | .emit _ | .abort _ => isPortTxn x = false
  | .poolRelease c _ => c = .irx → isPortTxn x = false
  | .pqTryPut _ h => isPortTxn x = false ∧ h < 2 ^ p.handleW
  | _ => True

theorem presents_ite {p : Params} {x : Txn} {g : Prop} [Decidable g] {i j : Instr} (hi : Presents p x i)
    (hj : Presents p x j) : Presents p x (if g then i else j) := by
  split
  · exact hi
  · exact hj

theorem presents_decodeTag (p : Params) (x : Txn) (c : Ctx) (b : Byte) : Presents p x (decodeTag c b) := by
  unfold decodeTag
  repeat refine presents_ite trivial ?_
  trivial

theorem presents_decodeByte (p : Params) (x : Txn) (ps : ParserState) (b : Byte) : Presents p x (decodeByte ps b) := by
  cases ps with
  | readCommand => exact presents_decodeTag p x _ b
  | readLenLow | readLenHigh | readData => trivial

theorem presents_decode {p : Params} {ps : ParserState} {x : Txn} {i : Instr} (h : decode p ps x = .ok i) :
    Presents p x i := by
  obtain ⟨port, c, data⟩ := x
  cases port with
  | rx =>
    simp only [decode] at h
    obtain ⟨b, rfl⟩ := byteOperand_eq_ok h
    split
    · exact presents_decodeByte p _ ps b
    · trivial
  | cmd =>
    obtain ⟨b, rfl⟩ := byteOperand_eq_ok h
    exact presents_decodeTag p _ c b
  | rxOp =>
    obtain ⟨b, rfl⟩ := byteOperand_eq_ok h
    trivial
  | edge =>
    simp only [decode] at h
    split_ifs at h
    cases h
    trivial
  | bufRd =>
    obtain ⟨_, _, rfl⟩ := decodeBufRead_eq_ok h
    trivial
  | word =>
    obtain ⟨_, _, rfl⟩ := decodeWord_eq_ok h
    trivial
  | rel =>
    obtain ⟨-, rfl⟩ := handleOperand_eq_ok h
    rintro rfl
    rfl
  | handle =>
    obtain ⟨-, rfl⟩ := handleOperand_eq_ok h
    trivial
  | pqPut =>
    obtain ⟨hfits, rfl⟩ := handleOperand_eq_ok h
    exact ⟨rfl, hfits⟩
  | eqPut =>
    simp only [decode] at h
    split_ifs at h
    cases h
    rfl
  | pqGet | eqGet | rst =>
    cases noOperand_eq_ok h
    trivial
  | alloc | emit | abort =>
    cases noOperand_eq_ok h
    rfl
  | run => cases h

theorem presents_loopStep {s : State} {c : Ctx} {x : Txn} {i : Instr} (h : loopStep c s = .ok i) :
    Presents s.cfg x i := by
  simp only [loopStep] at h
  split at h
  · split at h <;> cases h
    · trivial
    · exact presents_decodeTag _ _ _ _
    · exact presents_decodeTag _ _ _ _
    · rintro ⟨⟩
  · split at h <;> cases h <;> trivial
  all_goals cases h

theorem presents_fetch {s : State} {x : Txn} {i : Instr} (h : fetch s x = .ok i) : Presents s.cfg x i := by
  simp only [fetch] at h
  split at h
  · split at h
    · exact presents_loopStep h
    · cases h
  all_goals exact presents_decode h

/-- A step that runs an operation: the transaction it takes out of the trace, and what it leaves of the block. -/
theorem step_blockStep {s t : State} (h : step s = .next t) :
    t = s ∨ ∃ before x after i, s.trace = before ++ x :: after ∧ Presents s.cfg x i ∧
      BlockStep { s with trace := before ++ after } i t := by
  rcases step_eq_next h with ⟨-, rfl⟩ | ⟨x, rest, i, hp, hf, he⟩
  · exact .inl rfl
  · obtain ⟨before, after, htrace, rfl⟩ := pick_eq_some hp
    exact .inr ⟨before, x, after, i, htrace, presents_fetch hf, exec_blockStep he⟩

end Sys2Proof.Machine
end

section
/-! PROOFS. What every operation keeps, whatever it does (R21, R144), and what reset gives (R27, R210, R212). -/

namespace Sys2Proof.Machine

/-- The parameters and the pending transactions, which belong to no operation. -/
def State.program (s : State) : Params × List Txn := (s.cfg, s.trace)

theorem emitPacket_program {s t : State} (h : emitPacket s = .next t) : t.program = s.program := by
  rcases emitPacket_eq_next h with ⟨-, rfl⟩ | ⟨-, -, -, rfl⟩ <;> rfl

theorem abortFrame_program {s t : State} (h : abortFrame s = .next t) : t.program = s.program := by
  obtain ⟨-, -, -, rfl⟩ := abortFrame_eq_next.1 h
  rfl

theorem Received.program_eq {b : Byte} {s t : State} (h : Received b s t) : t.program = s.program := by
  cases h with
  | oversize _ _ ht => exact (abortFrame_program ht).trans rfl
  | empty _ _ _ ht | lastByte _ _ _ ht => exact (emitPacket_program ht).trans rfl
  | discarded | reopened | opened | lengthLow | lengthHigh | dataByte => rfl

theorem Effect.program_eq {s u : State} {i : Instr} (h : Effect s i u) : u.program = s.program := by
  cases h with
  | received hu => exact hu.program_eq
  | emit hu => exact emitPacket_program hu
  | abort hu => exact abortFrame_program hu
  | kept | edge | pqGet | eqGet | workerRelease | reset | alloc | parserRelease | pqPut | eqPut => rfl

theorem BlockStep.program_eq {s t : State} {i : Instr} (h : BlockStep s i t) : t.program = s.program := by
  obtain ⟨u, hu, ht⟩ := h
  exact (congrArg State.program ht).trans hu.program_eq

/-- A step either makes nothing happen or takes exactly one transaction out of the trace. -/
theorem step_program {s t : State} (h : step s = .next t) :
    t.program = s.program ∨ ∃ before x after, s.trace = before ++ x :: after ∧ t.program = (s.cfg, before ++ after) := by
  rcases step_blockStep h with rfl | ⟨before, x, after, i, htrace, -, hb⟩
  · exact .inl rfl
  · exact .inr ⟨before, x, after, htrace, hb.program_eq⟩

/-- Settles O52: the operations keep both, so only the picking of a transaction touches the trace. -/
theorem stepKeepsParametersAndOrder : Obligations.StepKeepsParametersAndOrder := by
  intro s t h
  rcases step_program h with hp | ⟨before, x, after, htrace, hp⟩ <;> obtain ⟨hcfg, ht⟩ := Prod.mk.inj hp
  · exact ⟨hcfg, ht ▸ List.Sublist.refl _, ht ▸ Nat.le_succ _⟩
  · refine ⟨hcfg, ?_, ?_⟩ <;> rw [ht, htrace]
    · exact (List.sublist_cons_self x after).append_left before
    · simp [Nat.add_assoc]

/-! Reset. -/

theorem State.afterReset_pool (s : State) (epoch : Nat) {h : Nat} (hh : h < s.cfg.nPackets) :
    (s.afterReset epoch).isFree h = true ∧ (s.afterReset epoch).owner h = .free := by
  simp [State.isFree, State.owner, State.afterReset, hh]

theorem Queue.items_of_pointers_zero {α : Type} (cap : Nat) (slot : List α) :
    Queue.items cap { slot := slot, wr := 0, rd := 0 } = [] := by
  simp [Queue.items, Queue.count]

/-- Settles O1: power-on is a reset, and reset writes each register that R27 names. -/
theorem bootHoldsResetValues : Obligations.BootHoldsResetValues := fun _ =>
  ⟨rfl, rfl, rfl, fun _ hh => State.afterReset_pool _ _ hh, rfl, rfl, rfl, rfl, rfl, rfl⟩

/-- Settles O2: RESET is the reset of R27 over the state it finds, in the platform's hands only. -/
theorem resetRestoresTheBlockAlone : Obligations.ResetRestoresTheBlockAlone := by
  intro s
  refine ⟨⟨{ s.blockReset with out := .none }, rfl, rfl, rfl, rfl, rfl, ?pool, rfl, rfl, rfl, rfl, ?pq, ?evq, rfl⟩, ?ctx⟩
  case pool => exact fun h hh => State.afterReset_pool s (s.epoch + 1) hh
  case pq => exact Queue.items_of_pointers_zero _ _
  case evq => exact Queue.items_of_pointers_zero _ _
  case ctx => exact fun c hc => if_neg hc

end Sys2Proof.Machine
end

section
/-! PROOFS. The shape of the state (R10, R36, R40) under each named update, and so under every step. An update that writes
only registers `Shape` does not read keeps it as it stands, which needs no lemma. -/

namespace Sys2Proof.Machine

/-- Every buffer's index fits the width of a handle (R5, R76). -/
theorem Params.lt_two_pow_handleW {p : Params} {h : Nat} (hh : h < p.nPackets) : h < 2 ^ p.handleW := by
  have hlog : p.nPackets - 1 < 2 ^ (Nat.log2 (p.nPackets - 1) + 1) := Nat.lt_log2_self
  rw [Params.handleW]
  omega

theorem shape_blockPart {s : State} : Shape s.blockPart ↔ Shape s := Iff.rfl

theorem Shape.setByte {s : State} (h : Shape s) {a : Nat} (ha : a < s.cfg.bufSpace) (v : Byte) : Shape (s.setByte a v) := by
  obtain ⟨hok, hfree, hown, hcur, hpq, hslots, hevq, hwf, hbound⟩ := h
  refine ⟨hok, hfree, hown, hcur, hpq, hslots, hevq, Memory.store_wf a v hwf, fun e he => ?_⟩
  rcases Memory.mem_store he with rfl | hold
  · exact ha
  · exact hbound e hold

theorem Shape.setCommand {s : State} (h : Shape s) {x : Nat} (hx : x < s.cfg.nPackets) (b : Byte) :
    Shape (s.setCommand x b) :=
  h.setByte (bufAddr_lt hx (by simp [Params.bufBytes])) b

theorem Shape.setLength {s : State} (h : Shape s) {x : Nat} (hx : x < s.cfg.nPackets) (l : Half) :
    Shape (s.setLength x l) :=
  (h.setByte (bufAddr_lt hx (by simp [Params.bufBytes])) _).setByte (bufAddr_lt hx (by simp [Params.bufBytes])) _

/-- R43: the only payload store is in bounds. -/
theorem Shape.storeNext {s : State} (h : Shape s) (hcur : s.cur < s.cfg.nPackets) (hcnt : s.cnt.toNat < s.cfg.maxPayload)
    (b : Byte) : Shape (s.storeNext b) :=
  h.setByte (bufAddr_lt hcur (by simp only [Params.bufBytes]; omega)) b

theorem Shape.drop {s : State} (h : Shape s) (r : DropReason) : Shape (s.drop r) := h

theorem Shape.takeBuffer {s : State} (h : Shape s) (x : Nat) : Shape (s.takeBuffer x) := by
  obtain ⟨hok, hfree, hown, hrest⟩ := h
  exact ⟨hok, by simpa using hfree, by simpa using hown, hrest⟩

theorem Shape.giveBack {s : State} (h : Shape s) (x : Nat) : Shape (s.giveBack x) := by
  obtain ⟨hok, hfree, hown, hrest⟩ := h
  exact ⟨hok, by simpa using hfree, by simpa using hown, hrest⟩

/-- R14: a buffer taken from the pool becomes `cur`. -/
theorem Shape.withCur {s : State} (h : Shape s) {x : Nat} (hx : x < s.cfg.nPackets) (held : Bool) :
    Shape { s with cur := x, held := held } := by
  obtain ⟨hok, hfree, hown, -, hrest⟩ := h
  exact ⟨hok, hfree, hown, Params.lt_two_pow_handleW hx, hrest⟩

theorem Shape.enqueue {s : State} (h : Shape s) (hroom : s.pq.count s.cfg.pqCap ≠ s.cfg.pqCap) {x : Nat}
    (hx : x < 2 ^ s.cfg.handleW) : Shape (s.enqueue x) := by
  obtain ⟨hok, hfree, hown, hcur, hpq, hslots, hrest⟩ := h
  refine ⟨hok, hfree, by simpa [State.enqueue] using hown, hcur, hpq.push hroom x, fun y hy => ?_, hrest⟩
  rcases List.mem_or_eq_of_mem_set hy with hold | rfl
  · exact hslots y hold
  · exact hx

theorem Shape.dequeue {s : State} (h : Shape s) (hne : s.pq.count s.cfg.pqCap ≠ 0) (x : Nat) : Shape (s.dequeue x) := by
  obtain ⟨hok, hfree, hown, hcur, hpq, hrest⟩ := h
  exact ⟨hok, hfree, by simpa [State.dequeue] using hown, hcur, hpq.pop hne, hrest⟩

theorem Shape.withEvq {s : State} (h : Shape s) {q : Queue Word} (hq : q.Wf s.cfg.eqCap) : Shape { s with evq := q } := by
  obtain ⟨hok, hfree, hown, hcur, hpq, hslots, -, hrest⟩ := h
  exact ⟨hok, hfree, hown, hcur, hpq, hslots, hq, hrest⟩

theorem Shape.evq_wf {s : State} (h : Shape s) : s.evq.Wf s.cfg.eqCap := by
  obtain ⟨-, -, -, -, -, -, hevq, -⟩ := h
  exact hevq

theorem Shape.cur_lt {s : State} (h : Shape s) : s.cur < 2 ^ s.cfg.handleW := by
  obtain ⟨-, -, -, hcur, -⟩ := h
  exact hcur

theorem Shape.emitPacket {s t : State} (h : Shape s) (he : emitPacket s = .next t) : Shape t := by
  rcases emitPacket_eq_next he with ⟨hroom, rfl⟩ | ⟨-, -, -, rfl⟩
  · exact h.enqueue hroom h.cur_lt
  · exact h.giveBack s.cur

theorem Shape.abortFrame {s t : State} (h : Shape s) (ha : abortFrame s = .next t) : Shape t := by
  obtain ⟨-, -, -, rfl⟩ := abortFrame_eq_next.1 ha
  exact h.giveBack s.cur

theorem Shape.received {b : Byte} {s t : State} (h : Shape s) (hr : Received b s t) : Shape t := by
  cases hr with
  | discarded r => exact h
  | reopened _ _ hcur => exact h.setCommand hcur b
  | opened _ _ _ hlt _ => exact ((h.takeBuffer _).withCur hlt true).setCommand hlt b
  | lengthLow _ hcur => exact h.setLength hcur _
  | oversize _ hcur ht => exact ((h.setLength hcur _).drop _).abortFrame ht
  | empty _ hcur _ ht => exact (h.setLength hcur _).emitPacket ht
  | lengthHigh _ hcur _ _ => exact h.setLength hcur _
  | lastByte _ hcur hcnt ht => exact (h.storeNext hcur hcnt b).emitPacket ht
  | dataByte _ hcur hcnt _ => exact h.storeNext hcur hcnt b

theorem Shape.effect {s u : State} {i : Instr} {x : Txn} (h : Shape s) (hi : Presents s.cfg x i) (he : Effect s i u) :
    Shape u := by
  cases he with
  | kept => exact h
  | received hu => exact h.received hu
  | edge _ _ hroom | eqPut _ hroom => exact h.withEvq (h.evq_wf.push hroom _)
  | eqGet hne _ => exact h.withEvq (h.evq_wf.pop hne)
  | pqGet hne _ => exact h.dequeue hne _
  | pqPut _ hroom => exact h.enqueue hroom hi.2
  | workerRelease | parserRelease => exact h.giveBack _
  | alloc => exact h.takeBuffer _
  | reset => exact State.afterReset_shape h.1 _
  | emit hu => exact h.emitPacket hu
  | abort hu => exact h.abortFrame hu

theorem Shape.blockStep {s t : State} {i : Instr} {x : Txn} (h : Shape s) (hi : Presents s.cfg x i)
    (hb : BlockStep s i t) : Shape t := by
  obtain ⟨u, he, ht⟩ := hb
  rw [← shape_blockPart, ht, shape_blockPart]
  exact h.effect hi he

/-- Settles O57: by what an operation can do to the block. The trace is no part of the shape. -/
theorem stepKeepsShape : Obligations.StepKeepsShape := by
  intro s t h hstep
  rcases step_blockStep hstep with rfl | ⟨before, x, after, i, -, hi, hb⟩
  · exact h
  · exact Shape.blockStep (s := { s with trace := before ++ after }) h hi hb

end Sys2Proof.Machine
end

section
/-! PROOFS. The ownership partition (R32, R33) when one buffer changes hands. Every change of ownership, in the pool or in
the packet queue, moves one buffer to one new owner (`Moves`); what the invariants need is derived from that alone. -/

namespace Sys2Proof.Machine

/-- `t` is `s` with buffer `x` given to owner `o`: the free set, the ghost owners and the contents of `PQ` say so, and no
other register is written. -/
structure Moves (s t : State) (x : Nat) (o : Owner) : Prop where
  lt : x < s.cfg.nPackets
  rest : t = { s with free := t.free, own := t.own, pq := t.pq, allocChoice := t.allocChoice }
  owner : ∀ h, t.owner h = if h = x then o else s.owner h
  isFree : ∀ h, t.isFree h = if h = x then decide (o = .free) else s.isFree h
  nodup : t.queued.Nodup
  mem_queued : ∀ h, h ∈ t.queued ↔ if h = x then o = .queued else h ∈ s.queued

/-- R35 for one buffer. -/
def PacketOk (s : State) (h : Nat) : Prop :=
  validTag s.cfg (s.command h) = true ∧ (s.length h).toNat ≤ s.cfg.maxPayload

section
variable {s t : State} {x : Nat} {o : Owner}

theorem Moves.cfg_eq (hm : Moves s t x o) : t.cfg = s.cfg := by
  rw [hm.rest]

theorem Moves.packetOk_iff (hm : Moves s t x o) (h : Nat) : PacketOk t h ↔ PacketOk s h := by
  rw [hm.rest]
  exact Iff.rfl

theorem Moves.owner_of_ne (hm : Moves s t x o) {h : Nat} (hne : h ≠ x) : t.owner h = s.owner h := by
  rw [hm.owner, if_neg hne]

theorem Moves.owner_self (hm : Moves s t x o) : t.owner x = o := by
  rw [hm.owner, if_pos rfl]

theorem OwnPartition.moves (h : OwnPartition s) (hm : Moves s t x o) : OwnPartition t := by
  obtain ⟨hfree, -, hbound, hqueued⟩ := h
  refine ⟨fun y hy => ?free, hm.nodup, fun y hy => ?bound, fun y hy => ?queued⟩
  all_goals rw [hm.cfg_eq] at *
  case free =>
    rw [hm.owner, hm.isFree]
    split
    · exact decide_eq_true_iff
    · exact hfree y hy
  case bound =>
    rw [hm.mem_queued] at hy
    split at hy
    · next heq => exact heq ▸ hm.lt
    · exact hbound y hy
  case queued =>
    rw [hm.owner, hm.mem_queued]
    split
    · exact Iff.rfl
    · exact hqueued y hy

/-- R35: only a buffer handed off by the parser has to be looked at. -/
theorem PacketsOk.moves (h : PacketsOk s) (hm : Moves s t x o) (hx : o = .queued ∨ o = .worker → PacketOk s x) :
    PacketsOk t := by
  intro y hy ho
  rw [hm.cfg_eq] at hy
  refine (hm.packetOk_iff y).2 ?_
  by_cases heq : y = x
  · subst heq
    exact hx (hm.owner_self ▸ ho)
  · exact h y hy (hm.owner_of_ne heq ▸ ho)

theorem EventsOk.moves (h : EventsOk s) (hm : Moves s t x o) : EventsOk t := by
  rw [hm.rest]
  exact h

theorem CounterOk.moves (h : CounterOk s) (hm : Moves s t x o) : CounterOk t := by
  rw [hm.rest]
  exact h

/-- A move between others than the parser is none of the parser's business (R30). -/
theorem HoldsOne.moves (h : HoldsOne s) (hm : Moves s t x o) (hs : s.owner x ≠ .parser) (ho : o ≠ .parser) :
    HoldsOne t := by
  obtain ⟨hps, hlt, howner⟩ := h
  have hps' : t.ps = s.ps := by rw [hm.rest]
  have hheld' : t.held = s.held := by rw [hm.rest]
  have hcur' : t.cur = s.cur := by rw [hm.rest]
  rw [HoldsOne, hps', hheld', hcur', hm.cfg_eq]
  refine ⟨hps, hlt, fun y hy => ?_⟩
  rw [← howner y hy, hm.owner]
  split
  · next heq => exact iff_of_false ho (heq ▸ hs)
  · exact Iff.rfl

/-- A move away from the parser leaves it without a buffer (R30, R109, R113). -/
theorem HoldsOne.moves_cur (h : HoldsOne s) (hm : Moves s t s.cur o) (ho : o ≠ .parser) : HoldsOne t.parserReset := by
  obtain ⟨-, -, howner⟩ := h
  refine ⟨by simp, by simp, fun y hy => iff_of_false ?_ (by simp)⟩
  change t.owner y ≠ .parser
  replace hy : y < s.cfg.nPackets := hm.cfg_eq ▸ hy
  rw [hm.owner]
  split
  · exact ho
  · next hne => exact fun hp => hne ((howner y hy).1 hp).2.symm

/-- A buffer that the parser takes while it holds none is the one it then holds (R30, R108). -/
theorem HoldsOne.moves_opened (h : HoldsOne s) (hm : Moves s t x .parser) (hheld : s.held = false) {ps : ParserState}
    (hps : ps ≠ .readCommand) : HoldsOne { t with cur := x, held := true, ps := ps } := by
  obtain ⟨-, -, howner⟩ := h
  refine ⟨by simpa using hps, fun _ => (hm.cfg_eq ▸ hm.lt : x < t.cfg.nPackets), fun y hy => ?_⟩
  change t.owner y = .parser ↔ true = true ∧ x = y
  replace hy : y < s.cfg.nPackets := hm.cfg_eq ▸ hy
  rw [hm.owner]
  split
  · next heq => simp [heq]
  · next hne => exact iff_of_false (by simp [howner y hy, hheld]) (by simp [Ne.symm hne])

end

/-! The four moves: POOL.ALLOC, POOL.RELEASE, and the two ends of `PQ`. -/

theorem owner_enqueue {s : State} {x : Nat} (hl : x < s.own.length) (h : Nat) :
    (s.enqueue x).owner h = if h = x then .queued else s.owner h := by
  simp only [State.owner, State.enqueue, List.getD_eq_getElem?_getD, List.getElem?_set, eq_comm (a := x)]
  split <;> simp

theorem owner_dequeue {s : State} {x : Nat} (hl : x < s.own.length) (h : Nat) :
    (s.dequeue x).owner h = if h = x then .worker else s.owner h := by
  simp only [State.owner, State.dequeue, List.getD_eq_getElem?_getD, List.getElem?_set, eq_comm (a := x)]
  split <;> simp

theorem Shape.free_length {s : State} (h : Shape s) : s.free.length = s.cfg.nPackets := by
  obtain ⟨-, hfree, -⟩ := h
  exact hfree

theorem Shape.own_length {s : State} (h : Shape s) : s.own.length = s.cfg.nPackets := by
  obtain ⟨-, -, hown, -⟩ := h
  exact hown

theorem Shape.pq_wf {s : State} (h : Shape s) : s.pq.Wf s.cfg.pqCap := by
  obtain ⟨-, -, -, -, hpq, -⟩ := h
  exact hpq

section
variable {s : State} {x : Nat}

theorem OwnPartition.isFree_eq_false (h : OwnPartition s) (hlt : x < s.cfg.nPackets) (ho : s.owner x ≠ .free) :
    s.isFree x = false := by
  rw [Bool.eq_false_iff]
  exact fun hf => ho ((h.1 x hlt).1 hf)

theorem OwnPartition.mem_queued (h : OwnPartition s) (hlt : x < s.cfg.nPackets) :
    x ∈ s.queued ↔ s.owner x = .queued := by
  obtain ⟨-, -, -, hqueued⟩ := h
  exact (hqueued x hlt).symm

theorem OwnPartition.nodup (h : OwnPartition s) : s.queued.Nodup := by
  obtain ⟨-, hnodup, -⟩ := h
  exact hnodup

/-- What stays where the free bit of `x` agrees with its new owner already. -/
theorem ite_self_of_eq {α : Type} (f : Nat → α) {x : Nat} {v : α} (hx : f x = v) (h : Nat) :
    f h = if h = x then v else f h := by
  split
  · next heq => rw [heq, hx]
  · rfl

theorem mem_queued_of_not_queued (hp : OwnPartition s) (hlt : x < s.cfg.nPackets) {o : Owner} (hs : s.owner x ≠ .queued)
    (ho : o ≠ .queued) (h : Nat) : h ∈ s.queued ↔ if h = x then o = .queued else h ∈ s.queued := by
  split
  · next heq => exact heq ▸ iff_of_false (mt (hp.mem_queued hlt).1 hs) ho
  · exact Iff.rfl

theorem moves_giveBack (hs : Shape s) (hp : OwnPartition s) (hlt : x < s.cfg.nPackets) (hq : s.owner x ≠ .queued) :
    Moves s (s.giveBack x) x .free where
  lt := hlt
  rest := rfl
  owner := owner_giveBack (hs.own_length.symm ▸ hlt)
  isFree := isFree_giveBack (hs.free_length.symm ▸ hlt)
  nodup := hp.nodup
  mem_queued := mem_queued_of_not_queued hp hlt hq (by decide)

theorem moves_takeBuffer (hs : Shape s) (hp : OwnPartition s) (hlt : x < s.cfg.nPackets) (hfree : s.isFree x = true) :
    Moves s (s.takeBuffer x) x .parser where
  lt := hlt
  rest := rfl
  owner := owner_takeBuffer (hs.own_length.symm ▸ hlt)
  isFree := isFree_takeBuffer (hs.free_length.symm ▸ hlt)
  nodup := hp.nodup
  mem_queued := mem_queued_of_not_queued hp hlt (by simp [(hp.1 x hlt).1 hfree]) (by decide)

theorem queued_enqueue (hs : Shape s) (hroom : s.pq.count s.cfg.pqCap ≠ s.cfg.pqCap) :
    (s.enqueue x).queued = s.queued ++ [x] :=
  Queue.items_push hs.pq_wf hroom x

theorem queued_eq_cons (hs : Shape s) (hne : s.pq.count s.cfg.pqCap ≠ 0)
    (hx : s.pq.slot[s.pq.rd % s.cfg.pqCap]? = some x) : s.queued = x :: (s.dequeue x).queued :=
  Queue.items_eq_cons hs.pq_wf hne hx

theorem moves_enqueue (hs : Shape s) (hp : OwnPartition s) (hlt : x < s.cfg.nPackets) (ho : s.owner x = .parser)
    (hroom : s.pq.count s.cfg.pqCap ≠ s.cfg.pqCap) : Moves s (s.enqueue x) x .queued where
  lt := hlt
  rest := rfl
  owner := owner_enqueue (hs.own_length.symm ▸ hlt)
  isFree := ite_self_of_eq s.isFree (hp.isFree_eq_false hlt (by simp [ho]))
  nodup := by
    rw [queued_enqueue hs hroom]
    have hnot : x ∉ s.queued := by simp [hp.mem_queued hlt, ho]
    simpa using List.Nodup.concat hnot hp.nodup
  mem_queued h := by
    rw [queued_enqueue hs hroom]
    split
    · next heq => simp [heq]
    · next hne => simp [hne]

/-- The handle at the head of `PQ` names a queued buffer. -/
theorem head_queued (hs : Shape s) (hp : OwnPartition s) (hne : s.pq.count s.cfg.pqCap ≠ 0)
    (hx : s.pq.slot[s.pq.rd % s.cfg.pqCap]? = some x) : x < s.cfg.nPackets ∧ s.owner x = .queued := by
  have hmem : x ∈ s.queued := queued_eq_cons hs hne hx ▸ List.mem_cons_self
  have ⟨_, _, hbound, _⟩ := hp
  exact ⟨hbound x hmem, (hp.mem_queued (hbound x hmem)).1 hmem⟩

theorem moves_dequeue (hs : Shape s) (hp : OwnPartition s) (hne : s.pq.count s.cfg.pqCap ≠ 0)
    (hx : s.pq.slot[s.pq.rd % s.cfg.pqCap]? = some x) : Moves s (s.dequeue x) x .worker := by
  obtain ⟨hlt, ho⟩ := head_queued hs hp hne hx
  have hcons := queued_eq_cons hs hne hx
  obtain ⟨hnot, hnodup⟩ := List.nodup_cons.1 (hcons ▸ hp.nodup)
  exact
    { lt := hlt
      rest := rfl
      owner := owner_dequeue (hs.own_length.symm ▸ hlt)
      isFree := ite_self_of_eq s.isFree (hp.isFree_eq_false hlt (by simp [ho]))
      nodup := hnodup
      mem_queued := fun h => by
        rw [hcons]
        split
        · next heq => simp [heq, hnot]
        · next hne => simp [hne] }

end

end Sys2Proof.Machine
end

section
/-! PROOFS. The invariants of spec/10_state.md section 9 under every step at the ports. Those on the buffers and the queues
(`BuffersInv`) hold at each point inside RX_BYTE too; R31's, on the frame in construction, is looked at where RX_BYTE ends. -/

namespace Sys2Proof.Machine

/-- The invariants of section 9 but for R31's on the frame in construction. -/
def BuffersInv (s : State) : Prop := Shape s ∧ HoldsOne s ∧ OwnPartition s ∧ PacketsOk s ∧ EventsOk s

theorem blockInv_iff {s : State} : BlockInv s ↔ BuffersInv s ∧ CounterOk s := by
  simp only [BlockInv, BuffersInv]
  tauto

theorem blockInv_blockPart {s : State} : BlockInv s.blockPart ↔ BlockInv s := Iff.rfl

/-! R31: the frame in construction. -/

theorem counterOk_parserReset (s : State) : CounterOk s.parserReset := by
  simp [CounterOk]

section
variable {s : State}

theorem HoldsOne.held_of_ps (h : HoldsOne s) (hps : s.ps ≠ .readCommand) : s.held = true := by
  obtain ⟨hiff, -⟩ := h
  simpa using mt hiff.2 hps

theorem HoldsOne.held_false (h : HoldsOne s) (hps : s.ps = .readCommand) : s.held = false := by
  obtain ⟨hiff, -⟩ := h
  exact hiff.1 hps

theorem HoldsOne.owner_cur (h : HoldsOne s) (hheld : s.held = true) : s.cur < s.cfg.nPackets ∧ s.owner s.cur = .parser := by
  obtain ⟨-, hlt, howner⟩ := h
  exact ⟨hlt hheld, (howner s.cur (hlt hheld)).2 ⟨hheld, rfl⟩⟩

/-- The parser's buffer is the only one in its hands. -/
theorem HoldsOne.eq_cur (h : HoldsOne s) {x : Nat} (hlt : x < s.cfg.nPackets) (ho : s.owner x = .parser) :
    s.held = true ∧ s.cur = x := by
  obtain ⟨-, -, howner⟩ := h
  exact (howner x hlt).1 ho

/-- While the parser is past the tag, its state and the byte counter move without touching the buffers. -/
theorem BuffersInv.withPs (h : BuffersInv s) (hheld : s.held = true) {ps : ParserState} (hps : ps ≠ .readCommand)
    (cnt : Half) : BuffersInv { s with ps := ps, cnt := cnt } := by
  obtain ⟨hshape, ⟨-, hcur, howner⟩, hrest⟩ := h
  exact ⟨hshape, ⟨by simp [hps, hheld], hcur, howner⟩, hrest⟩

/-! R43: what the parser writes lies in its own buffer, which no packet that was handed off does. -/

theorem bufBytes_gt (p : Params) {off : Nat} (h : off < 3) : off < p.bufBytes := by
  rw [Params.bufBytes]
  omega

/-- A write to another buffer, or past the header, leaves the header of `x`. -/
theorem header_setByte {x y off : Nat} (hoff : off < s.cfg.bufBytes) (hne : x ≠ y ∨ 3 ≤ off) (v : Byte) :
    (s.setByte (bufAddr s.cfg y off) v).command x = s.command x ∧
      (s.setByte (bufAddr s.cfg y off) v).length x = s.length x := by
  have hkept : ∀ o < 3, (s.setByte (bufAddr s.cfg y off) v).byteAt (bufAddr s.cfg x o) = s.byteAt (bufAddr s.cfg x o) :=
    fun o ho => State.byteAt_setByte_other s v
      (bufAddr_ne (bufBytes_gt _ ho) hoff (hne.imp id fun h => by omega))
  simp only [State.command, State.length, State.setByte_cfg]
  rw [hkept 0 (by decide), hkept 1 (by decide), hkept 2 (by decide)]
  exact ⟨rfl, rfl⟩

theorem packetOk_setByte {x y off : Nat} (hoff : off < s.cfg.bufBytes) (hne : x ≠ y ∨ 3 ≤ off) (v : Byte) :
    PacketOk (s.setByte (bufAddr s.cfg y off) v) x ↔ PacketOk s x := by
  obtain ⟨hcmd, hlen⟩ := header_setByte hoff hne v
  rw [PacketOk, PacketOk, hcmd, hlen, State.setByte_cfg]

theorem BuffersInv.setByte (h : BuffersInv s) (hheld : s.held = true) {off : Nat} (hoff : off < s.cfg.bufBytes) (v : Byte) :
    BuffersInv (s.setByte (bufAddr s.cfg s.cur off) v) := by
  obtain ⟨hshape, hone, hpart, hpackets, hevents⟩ := h
  obtain ⟨hlt, howner⟩ := hone.owner_cur hheld
  refine ⟨hshape.setByte (bufAddr_lt hlt hoff) v, hone, hpart, fun x hx ho => ?_, hevents⟩
  have hne : x ≠ s.cur := by
    rintro rfl
    rcases ho with ho | ho <;> cases howner.symm.trans ho
  exact (packetOk_setByte hoff (.inl hne) v).2 (hpackets x hx ho)

theorem BuffersInv.setLength (h : BuffersInv s) (hheld : s.held = true) (l : Half) :
    BuffersInv (s.setLength s.cur l) :=
  (h.setByte hheld (bufBytes_gt _ (by decide)) _).setByte (s := s.setByte (bufAddr s.cfg s.cur 1) _) hheld
    (bufBytes_gt _ (by decide)) _

theorem command_setLength (x : Nat) (l : Half) : (s.setLength x l).command x = s.command x := by
  simp only [State.command, State.setLength_cfg, State.byteAt_setLength]
  rw [if_neg (bufAddr_ne (bufBytes_gt _ (by decide)) (bufBytes_gt _ (by decide)) (.inr (by decide))),
    if_neg (bufAddr_ne (bufBytes_gt _ (by decide)) (bufBytes_gt _ (by decide)) (.inr (by decide)))]

theorem BuffersInv.storeNext (h : BuffersInv s) (hps : s.ps = .readData) (hcnt : s.cnt.toNat < s.cfg.maxPayload) (b : Byte) :
    BuffersInv (s.storeNext b) := by
  have ⟨_, hone, _⟩ := h
  exact h.setByte (hone.held_of_ps (by simp [hps])) (by rw [Params.bufBytes]; omega) b

theorem header_storeNext (hcnt : s.cnt.toNat < s.cfg.maxPayload) (b : Byte) :
    (s.storeNext b).command s.cur = s.command s.cur ∧ (s.storeNext b).length s.cur = s.length s.cur :=
  header_setByte (s := s) (by rw [Params.bufBytes]; omega) (.inr (by omega)) b

theorem packetOk_storeNext (hcnt : s.cnt.toNat < s.cfg.maxPayload) (b : Byte) :
    PacketOk (s.storeNext b) s.cur ↔ PacketOk s s.cur :=
  packetOk_setByte (s := s) (by rw [Params.bufBytes]; omega) (.inr (by omega)) b

/-! The two ends of a frame. -/

/-- R109, R113: the buffer of the frame goes to its new owner, and the parser is at the start again. -/
theorem BuffersInv.endFrame {t : State} {o : Owner} (h : BuffersInv s) (hm : Moves s t s.cur o) (ht : Shape t)
    (ho : o ≠ .parser) (hx : o = .queued ∨ o = .worker → PacketOk s s.cur) : BlockInv t.parserReset := by
  obtain ⟨-, hone, hpart, hpackets, hevents⟩ := h
  have hpart' : OwnPartition t := hpart.moves hm
  have hpackets' : PacketsOk t := hpackets.moves hm hx
  have hevents' : EventsOk t := hevents.moves hm
  exact ⟨ht, hone.moves_cur hm ho, counterOk_parserReset t, hpart', hpackets', hevents'⟩

/-- The parser's release of the buffer it holds (R82, R113). -/
theorem BuffersInv.giveUp (h : BuffersInv s) (hlt : s.cur < s.cfg.nPackets) (ho : s.owner s.cur = .parser) :
    BlockInv (s.giveBack s.cur).parserReset := by
  have ⟨hshape, _, hpart, _⟩ := h
  exact h.endFrame (moves_giveBack hshape hpart hlt (by simp [ho])) (hshape.giveBack _) (by decide) (by simp)

theorem BuffersInv.drop (h : BuffersInv s) (r : DropReason) : BuffersInv (s.drop r) := h

theorem BuffersInv.abortFrame {t : State} (h : BuffersInv s) (ha : abortFrame s = .next t) : BlockInv t := by
  obtain ⟨hlt, -, ho, rfl⟩ := abortFrame_eq_next.1 ha
  exact h.giveUp hlt ho

/-- R35: EMIT hands off a packet that is in order. -/
theorem BuffersInv.emitPacket {t : State} (h : BuffersInv s) (hheld : s.held = true) (hx : PacketOk s s.cur)
    (he : emitPacket s = .next t) : BlockInv t := by
  have ⟨hshape, hone, hpart, _⟩ := h
  obtain ⟨hlt, ho⟩ := hone.owner_cur hheld
  rcases emitPacket_eq_next he with ⟨hroom, rfl⟩ | ⟨-, -, -, rfl⟩
  · exact h.endFrame (moves_enqueue hshape hpart hlt ho hroom) (hshape.enqueue hroom hshape.cur_lt) (by decide)
      fun _ => hx
  · exact h.giveUp hlt ho

/-! RX_BYTE. -/

/-- R108: the buffer taken from the pool is the parser's, with the tag in it. -/
theorem BuffersInv.opened {x : Nat} (h : BuffersInv s) (hheld : s.held = false) (hlt : x < s.cfg.nPackets)
    (hfree : s.isFree x = true) (b : Byte) :
    BuffersInv { ({ s.takeBuffer x with cur := x, held := true }).setCommand x b with ps := .readLenLow } := by
  obtain ⟨hshape, hone, hpart, hpackets, hevents⟩ := h
  have hm := moves_takeBuffer hshape hpart hlt hfree
  have hpart' : OwnPartition (s.takeBuffer x) := hpart.moves hm
  have hpackets' : PacketsOk (s.takeBuffer x) := hpackets.moves hm (by simp)
  have hevents' : EventsOk (s.takeBuffer x) := hevents.moves hm
  have hu : BuffersInv { s.takeBuffer x with cur := x, held := true, ps := .readLenLow } :=
    ⟨(hshape.takeBuffer x).withCur hlt true, hone.moves_opened hm hheld (by decide), hpart', hpackets', hevents'⟩
  exact hu.setByte rfl (bufBytes_gt _ (by decide)) b

theorem CounterOk.cnt_eq_zero (h : CounterOk s) (hps : s.ps ≠ .readData) : s.cnt = 0 := by
  obtain ⟨hzero, -, -⟩ := h
  exact hzero hps

theorem CounterOk.lt_length (h : CounterOk s) (hps : s.ps = .readData) :
    (s.length s.cur).toNat ≤ s.cfg.maxPayload ∧ s.cnt.toNat < (s.length s.cur).toNat := by
  obtain ⟨-, hlt, -⟩ := h
  exact hlt hps

theorem CounterOk.tag (h : CounterOk s) (hps : s.ps ≠ .readCommand) : validTag s.cfg (s.command s.cur) = true := by
  obtain ⟨-, -, htag⟩ := h
  exact htag hps

/-- R110, R111: past the tag, a write of the length leaves the tag in the buffer valid. -/
theorem CounterOk.tag_setLength (h : CounterOk s) (hps : s.ps ≠ .readCommand) (l : Half) :
    validTag s.cfg ((s.setLength s.cur l).command s.cur) = true := by
  rw [command_setLength]
  exact h.tag hps

/-- The counter does not wrap: it stays below a 16-bit length (R16). -/
theorem toNat_succ_lt {c l : Half} (hlt : c.toNat < l.toNat) (hne : c + 1 ≠ l) : (c + 1).toNat < l.toNat := by
  bv_omega

theorem counterOk_opened {x : Nat} {b : Byte} (h : CounterOk s) (hps : s.ps = .readCommand)
    (htag : validTag s.cfg b = true) :
    CounterOk { ({ s.takeBuffer x with cur := x, held := true }).setCommand x b with ps := .readLenLow } := by
  refine ⟨fun _ => h.cnt_eq_zero (by simp [hps]), by simp, fun _ => ?_⟩
  exact (congrArg (validTag s.cfg) (State.command_setCommand _ _ b)).trans htag

theorem counterOk_lengthLow (h : CounterOk s) (hps : s.ps = .readLenLow) (l : Half) :
    CounterOk { s.setLength s.cur l with ps := .readLenHigh } :=
  ⟨fun _ => h.cnt_eq_zero (by simp [hps]), by simp, fun _ => h.tag_setLength (by simp [hps]) l⟩

theorem counterOk_lengthHigh {l : Half} (h : CounterOk s) (hps : s.ps = .readLenHigh) (hpos : l ≠ 0)
    (hmax : l.toNat ≤ s.cfg.maxPayload) : CounterOk { s.setLength s.cur l with cnt := 0, ps := .readData } := by
  refine ⟨by simp, fun _ => ?_, fun _ => h.tag_setLength (by simp [hps]) l⟩
  change ((s.setLength s.cur l).length s.cur).toNat ≤ s.cfg.maxPayload ∧ 0 < ((s.setLength s.cur l).length s.cur).toNat
  rw [State.length_setLength]
  exact ⟨hmax, Nat.pos_of_ne_zero fun h0 => hpos (BitVec.eq_of_toNat_eq h0)⟩

theorem counterOk_dataByte {b : Byte} (h : CounterOk s) (hps : s.ps = .readData) (hcnt : s.cnt.toNat < s.cfg.maxPayload)
    (hmore : s.cnt + 1 ≠ (s.storeNext b).length s.cur) : CounterOk (s.storeNext b) := by
  obtain ⟨hcmd, hlen⟩ := header_storeNext hcnt b
  obtain ⟨hmax, hlt⟩ := h.lt_length hps
  refine ⟨fun hne => absurd hps hne, fun _ => ?_, fun _ => ?_⟩
  · change ((s.storeNext b).length s.cur).toNat ≤ s.cfg.maxPayload ∧
      (s.cnt + 1).toNat < ((s.storeNext b).length s.cur).toNat
    rw [hlen] at hmore ⊢
    exact ⟨hmax, toNat_succ_lt hlt hmore⟩
  · exact (congrArg (validTag s.cfg) hcmd).trans (h.tag (by simp [hps]))

theorem BlockInv.received {b : Byte} {t : State} (h : BlockInv s) (hr : Received b s t) : BlockInv t := by
  obtain ⟨hb, hc⟩ := blockInv_iff.1 h
  have ⟨_, hone, _⟩ := hb
  have hheld : s.ps ≠ .readCommand → s.held = true := hone.held_of_ps
  cases hr with
  | discarded r => exact h
  | reopened hheld' hps _ => cases hheld'.symm.trans (hone.held_false hps)
  | opened hps hheld' htag hlt hfree =>
    exact blockInv_iff.2 ⟨hb.opened hheld' hlt hfree b, counterOk_opened hc hps htag⟩
  | lengthLow hps _ =>
    replace hheld := hheld (by simp [hps])
    exact blockInv_iff.2 ⟨(hb.setLength hheld _).withPs hheld (by decide) s.cnt, counterOk_lengthLow hc hps _⟩
  | oversize hps _ ht => exact ((hb.setLength (hheld (by simp [hps])) _).drop _).abortFrame ht
  | empty hps _ hzero ht =>
    have htag := hc.tag_setLength (by simp [hps]) (s.lengthFrom b)
    replace hheld := hheld (by simp [hps])
    exact (hb.setLength hheld _).emitPacket hheld ⟨htag, by simp [hzero]⟩ ht
  | lengthHigh hps _ hpos hmax =>
    replace hheld := hheld (by simp [hps])
    exact blockInv_iff.2 ⟨(hb.setLength hheld _).withPs hheld (by decide) 0, counterOk_lengthHigh hc hps hpos hmax⟩
  | lastByte hps _ hcnt ht =>
    have hpacket : PacketOk s s.cur := ⟨hc.tag (by simp [hps]), (hc.lt_length hps).1⟩
    exact (hb.storeNext hps hcnt b).emitPacket (hheld (by simp [hps])) ((packetOk_storeNext hcnt b).2 hpacket) ht
  | dataByte hps _ hcnt hmore => exact blockInv_iff.2 ⟨hb.storeNext hps hcnt b, counterOk_dataByte hc hps hcnt hmore⟩

/-! The other operations at the ports. -/

/-- A move between the pool, `PQ` and the dispatcher. -/
theorem BlockInv.moves {t : State} {x : Nat} {o : Owner} (h : BlockInv s) (hm : Moves s t x o) (ht : Shape t)
    (hs : s.owner x ≠ .parser) (ho : o ≠ .parser) (hx : o = .queued ∨ o = .worker → PacketOk s x) : BlockInv t := by
  obtain ⟨-, hone, hc, hpart, hpackets, hevents⟩ := h
  exact ⟨ht, hone.moves hm hs ho, hc.moves hm, hpart.moves hm, hpackets.moves hm hx, hevents.moves hm⟩

theorem BlockInv.withEvq (h : BlockInv s) {q : Queue Word} (hq : q.Wf s.cfg.eqCap)
    (hev : ∀ ev ∈ q.items s.cfg.eqCap, ev.toNat < 2 ^ 17) : BlockInv { s with evq := q } := by
  obtain ⟨hshape, hone, hc, hpart, hpackets, -⟩ := h
  exact ⟨hshape.withEvq hq, hone, hc, hpart, hpackets, hev⟩

/-- R37: what EDGE encodes fits 17 bits (R130). -/
theorem toNat_encodeEvent_lt (pin : Half) (rising : Bool) : (encodeEvent pin rising).toNat < 2 ^ 17 := by
  rw [encodeEvent, BitVec.toNat_setWidth]
  exact (Nat.mod_le _ _).trans_lt (BitVec.isLt _)

theorem State.afterReset_owner (s : State) (epoch : Nat) (h : Nat) : (s.afterReset epoch).owner h = .free := by
  simp only [State.owner, State.afterReset, List.getD_eq_getElem?_getD, List.getElem?_replicate]
  split <;> rfl

/-- Reset leaves every buffer free and both queues empty, so that section 9 has nothing else to say (R27). -/
theorem State.afterReset_blockInv (hok : s.cfg.ok) (epoch : Nat) : BlockInv (s.afterReset epoch) := by
  have howner := s.afterReset_owner epoch
  have hqueued : (s.afterReset epoch).queued = [] := Queue.items_of_pointers_zero _ _
  have hevents : (s.afterReset epoch).evq.items (s.afterReset epoch).cfg.eqCap = [] := Queue.items_of_pointers_zero _ _
  have hheld : (s.afterReset epoch).held = false := rfl
  have hps : (s.afterReset epoch).ps = .readCommand := rfl
  refine ⟨State.afterReset_shape hok epoch, ⟨?ps, ?cur, ?parser⟩, ⟨fun _ => rfl, ?length, ?tag⟩,
    ⟨fun x hx => ?free, ?nodup, ?bound, ?queued⟩, ?packets, ?events⟩
  case free => exact iff_of_true (State.afterReset_pool s epoch hx).1 (howner x)
  all_goals simp [howner, hqueued, hevents, hheld, hps, PacketsOk, EventsOk]

theorem BlockInv.effect {u : State} {i : Instr} {x : Txn} (h : BlockInv s) (hport : isPortTxn x = true)
    (hi : Presents s.cfg x i) (he : Effect s i u) : BlockInv u := by
  have ⟨hshape, _, _, hpart, hpackets, hevents⟩ := h
  cases he with
  | kept => exact h
  | received hu => exact h.received hu
  | edge pin rising hroom =>
    refine h.withEvq (hshape.evq_wf.push hroom _) fun ev hev => ?_
    rw [Queue.items_push hshape.evq_wf hroom] at hev
    rcases List.mem_append.1 hev with hold | hnew
    · exact hevents ev hold
    · exact List.mem_singleton.1 hnew ▸ toNat_encodeEvent_lt pin rising
  | eqGet hne hev =>
    refine h.withEvq (hshape.evq_wf.pop hne) fun ev hmem => hevents ev ?_
    rw [Queue.items_eq_cons hshape.evq_wf hne hev]
    exact List.mem_cons_of_mem _ hmem
  | pqGet hne hx =>
    obtain ⟨hlt, ho⟩ := head_queued hshape hpart hne hx
    exact h.moves (moves_dequeue hshape hpart hne hx) (hshape.dequeue hne _) (by simp [ho]) (by decide)
      fun _ => hpackets _ hlt (.inl ho)
  | workerRelease hlt _ ho =>
    exact h.moves (moves_giveBack hshape hpart hlt (by simp [ho])) (hshape.giveBack _) (by simp [ho]) (by decide) (by simp)
  | reset => exact State.afterReset_blockInv hshape.1 _
  | alloc | eqPut | emit | abort => cases hport.symm.trans hi
  | parserRelease => cases hport.symm.trans (hi rfl)
  | pqPut => cases hport.symm.trans hi.1

theorem BlockInv.blockStep {t : State} {i : Instr} {x : Txn} (h : BlockInv s) (hport : isPortTxn x = true)
    (hi : Presents s.cfg x i) (hb : BlockStep s i t) : BlockInv t := by
  obtain ⟨u, he, ht⟩ := hb
  rw [← blockInv_blockPart, ht, blockInv_blockPart]
  exact h.effect hport hi he

end

/-- Settles O59: by what an operation can do to the block; the trace that is left is part of the one before. -/
theorem stepKeepsBlockInvariants : Obligations.StepKeepsBlockInvariants := by
  intro s t h hports hstep
  rcases step_blockStep hstep with rfl | ⟨before, x, after, i, htrace, hi, hb⟩
  · exact ⟨h, hports⟩
  · have hx : isPortTxn x = true := hports x (by simp [htrace])
    refine ⟨BlockInv.blockStep (s := { s with trace := before ++ after }) h hx hi hb, fun y hy => hports y ?_⟩
    rw [(Prod.mk.inj hb.program_eq).2] at hy
    rw [htrace]
    exact ((List.sublist_cons_self x after).append_left before).subset hy

end Sys2Proof.Machine
end

section
/-! PROOFS. Conservation of buffers (R32, R86): every buffer has one of four owners, and each owner's share is counted by a
register of the block. -/

namespace Sys2Proof.Machine

/-- The buffers that `o` owns, in rising order. -/
def State.ownedBy (s : State) (o : Owner) : List Nat := (List.range s.cfg.nPackets).filter fun h => decide (s.owner h = o)

theorem mem_ownedBy {s : State} {o : Owner} {h : Nat} : h ∈ s.ownedBy o ↔ h < s.cfg.nPackets ∧ s.owner h = o := by
  simp [State.ownedBy]

theorem nodup_ownedBy (s : State) (o : Owner) : (s.ownedBy o).Nodup := List.nodup_range.filter _

/-- Each element has one of the four values, so the four shares make up the whole list. -/
theorem length_filter_owner (f : Nat → Owner) (l : List Nat) :
    (l.filter fun h => decide (f h = .free)).length + (l.filter fun h => decide (f h = .parser)).length +
      (l.filter fun h => decide (f h = .queued)).length + (l.filter fun h => decide (f h = .worker)).length =
    l.length := by
  induction l with
  | nil => rfl
  | cons x xs ih => cases hx : f x <;> simp [hx] <;> omega

/-- A list without repetitions that has the members of a share has its length. -/
theorem length_ownedBy {s : State} {o : Owner} {l : List Nat} (hl : l.Nodup)
    (hmem : ∀ h, h ∈ l ↔ h < s.cfg.nPackets ∧ s.owner h = o) : (s.ownedBy o).length = l.length :=
  ((List.perm_ext_iff_of_nodup (nodup_ownedBy s o) hl).2 fun h => mem_ownedBy.trans (hmem h).symm).length_eq

section
variable {s : State}

theorem length_ownedBy_free (h : OwnPartition s) : (s.ownedBy .free).length = s.freeSet.length :=
  length_ownedBy (List.nodup_range.filter _) fun x => mem_freeSet.trans (and_congr_right (h.1 x))

/-- R30: the parser's share is the buffer `cur`, or none. -/
theorem length_ownedBy_parser (h : HoldsOne s) : (s.ownedBy .parser).length = if s.held then 1 else 0 := by
  split
  · next hheld =>
    obtain ⟨hlt, ho⟩ := h.owner_cur hheld
    refine length_ownedBy (List.nodup_singleton s.cur) fun x => List.mem_singleton.trans ⟨?_, ?_⟩
    · rintro rfl
      exact ⟨hlt, ho⟩
    · rintro ⟨hx, hox⟩
      exact (h.eq_cur hx hox).2.symm
  · next hheld =>
    exact length_ownedBy List.nodup_nil fun x =>
      iff_of_false List.not_mem_nil fun ⟨hx, hox⟩ => hheld (h.eq_cur hx hox).1

/-- R33: the queued share is what `PQ` counts. -/
theorem length_ownedBy_queued (hs : Shape s) (h : OwnPartition s) :
    (s.ownedBy .queued).length = s.pq.count s.cfg.pqCap := by
  have ⟨_, hnodup, hbound, _⟩ := h
  rw [← Queue.length_items hs.pq_wf]
  exact length_ownedBy hnodup fun x =>
    ⟨fun hx => ⟨hbound x hx, (h.mem_queued (hbound x hx)).1 hx⟩, fun ⟨hx, hox⟩ => (h.mem_queued hx).2 hox⟩

end

/-- Settles O25: the four owners' shares, each as its register counts it. -/
theorem buffersAreConserved : Obligations.BuffersAreConserved := by
  rintro s ⟨hshape, hone, -, hpart, -, -⟩
  rw [← length_ownedBy_free hpart, ← length_ownedBy_parser hone, ← length_ownedBy_queued hshape hpart]
  exact (length_filter_owner s.owner _).trans List.length_range

/-- Settles O29: the buffer that the parser holds is none of the queued ones, so by conservation one place is left. -/
theorem packetQueueNeverFullForTheParser : Obligations.PacketQueueNeverFullForTheParser := by
  intro s h hheld
  have hsum := buffersAreConserved s h
  rw [if_pos hheld] at hsum
  omega

end Sys2Proof.Machine
end

section
/-! PROOFS. What the decoder yields fits its port (R40, R76): only the operands that are plain numbers, a handle or a payload
offset, can fail to, and each port that takes one tests it. -/

namespace Sys2Proof.Machine

theorem wellFormed_decodeTag (p : Params) (c : Ctx) (b : Byte) : wellFormed p (decodeTag c b) = true := by
  simp only [decodeTag, apply_ite (wellFormed p)]
  simp only [wellFormed, ite_self]

theorem wellFormed_decodeByte (p : Params) (ps : ParserState) (b : Byte) : wellFormed p (decodeByte ps b) = true := by
  cases ps with
  | readCommand => exact wellFormed_decodeTag p .irx b
  | readLenLow | readLenHigh | readData => rfl

theorem handleFits_of_handleOperand {p : Params} {data : Nat} {i : Instr} {k : Nat → Instr}
    (h : handleOperand p data k = .ok i) : handleFits p data = true ∧ i = k data :=
  (handleOperand_eq_ok h).imp_left decide_eq_true

/-- The offset of BUF.READ is tested before it is cut to 16 bits, which makes it no larger. -/
theorem fieldFits_payload_ofNat {p : Params} {off : Nat} (h : off < p.maxPayload) :
    fieldFits p (.payload (BitVec.ofNat 16 off)) = true :=
  decide_eq_true ((BitVec.toNat_ofNat off 16).trans_le (Nat.mod_le _ _) |>.trans_lt h)

theorem wellFormed_bufRead {p : Params} {x : Nat} {f : BufField} (c : Ctx) (hx : handleFits p x ≠ false)
    (hf : fieldFits p f = true) : wellFormed p (.bufRead c x f) = true :=
  Bool.and_eq_true_iff.2 ⟨Bool.eq_true_of_not_eq_false hx, hf⟩

theorem wellFormed_decodeBufRead {p : Params} {c : Ctx} {data : Nat} {i : Instr} (h : decodeBufRead p c data = .ok i) :
    wellFormed p i = true := by
  simp only [decodeBufRead] at h
  split_ifs at h with hnofit hcommand hzero hlength hzero hpayload hoff <;> cases h
  · exact wellFormed_bufRead c hnofit rfl
  · exact wellFormed_bufRead c hnofit rfl
  · exact wellFormed_bufRead c hnofit (fieldFits_payload_ofNat hoff)

/-- Settles O54, port by port. -/
theorem decodedIsWellFormed : Obligations.DecodedIsWellFormed := by
  rintro p ps ⟨port, c, data⟩ i h
  cases port with
  | rx =>
    simp only [decode] at h
    obtain ⟨b, rfl⟩ := byteOperand_eq_ok h
    split
    · exact wellFormed_decodeByte p ps b
    · rfl
  | cmd =>
    obtain ⟨b, rfl⟩ := byteOperand_eq_ok h
    exact wellFormed_decodeTag p c b
  | rxOp =>
    obtain ⟨b, rfl⟩ := byteOperand_eq_ok h
    rfl
  | bufRd => exact wellFormed_decodeBufRead h
  | rel | pqPut | handle =>
    obtain ⟨hfits, rfl⟩ := handleFits_of_handleOperand h
    exact hfits
  | edge | eqPut =>
    simp only [decode] at h
    split_ifs at h
    cases h
    rfl
  | word =>
    obtain ⟨_, _, rfl⟩ := decodeWord_eq_ok h
    rfl
  | pqGet | eqGet | rst | alloc | emit | abort =>
    cases noOperand_eq_ok h
    rfl
  | run => cases h

end Sys2Proof.Machine
end

section
/-! PROOFS. What a handle's holder may do with it: the checks of R188 in the order of D17, then BUF.READ (R44) and the handle
presented by itself (R47, R76). -/

namespace Sys2Proof.Machine

section
variable {s : State} {h : Nat}

@[simp] theorem onlyIn_self (c : Ctx) (r : Result) : onlyIn c c r = r := if_pos rfl

theorem onlyIn_of_ne {allowed c : Ctx} (hne : c ≠ allowed) (r : Result) : onlyIn allowed c r = .fault .wrongContext :=
  if_neg hne

theorem readable_of_le (hle : s.cfg.nPackets ≤ h) (r : Result) : readable h s r = .fault .badHandle := if_pos hle

theorem readable_of_foreign (hlt : h < s.cfg.nPackets) (howner : s.owner h ≠ .worker) (r : Result) :
    readable h s r = .fault .foreignAccess :=
  (if_neg (Nat.not_le.2 hlt)).trans (if_pos howner)

theorem readable_of_worker (hlt : h < s.cfg.nPackets) (howner : s.owner h = .worker) (r : Result) : readable h s r = r :=
  (if_neg (Nat.not_le.2 hlt)).trans (if_neg (not_not.2 howner))

theorem exec_bufRead (c : Ctx) (h : Nat) (f : BufField) (s : State) :
    exec (.bufRead c h f) s = readable h s (onlyIn .wdisp c (fieldRead s h f)) := rfl

/-- A buffer that a worker owns is read by the dispatcher as it stands. -/
theorem exec_bufRead_of_worker (hlt : h < s.cfg.nPackets) (howner : s.owner h = .worker) (f : BufField) :
    exec (.bufRead .wdisp h f) s = fieldRead s h f := by
  rw [exec_bufRead, readable_of_worker hlt howner, onlyIn_self]

theorem fieldRead_payload_of_lt_length {off : Half} (hoff : off.toNat < s.cfg.maxPayload)
    (hlen : off.toNat < (s.length h).toNat) :
    fieldRead s h (.payload off) = .next { s with out := .byte (s.payload h off.toNat) } :=
  (if_neg (Nat.not_le.2 hoff)).trans (if_pos hlen)

/-- Inside the payload array BUF.READ answers some byte: the stored one, or beyond `length` a free one (U3). -/
theorem fieldRead_payload_eq_next {off : Half} (hoff : off.toNat < s.cfg.maxPayload) :
    ∃ v, fieldRead s h (.payload off) = .next { s with out := .byte v } := by
  by_cases hlen : off.toNat < (s.length h).toNat
  · exact ⟨_, fieldRead_payload_of_lt_length hoff hlen⟩
  · exact ⟨_, (if_neg (Nat.not_le.2 hoff)).trans (if_neg hlen)⟩

theorem exec_handle_of_le (hle : s.cfg.nPackets ≤ h) (c : Ctx) : exec (.handle c h) s = .fault .badHandle := if_pos hle

theorem exec_handle_of_lt (hlt : h < s.cfg.nPackets) {c : Ctx} (hc : c ∈ [Ctx.irx, .wdisp]) :
    exec (.handle c h) s = .next { s with out := .handle h } := by
  have hcases : c = .irx ∨ c = .wdisp := by simpa using hc
  rcases hcases with rfl | rfl <;> exact if_neg (Nat.not_le.2 hlt)

end

/-- Settles O34: the three faults in the order of `readable` and `onlyIn`, then the field. -/
theorem bufReadReturnsTheField : Obligations.BufReadReturnsTheField := by
  intro s h
  refine ⟨fun hle c f => ?bad, fun hlt howner c f => ?foreign, fun hlt howner c f hc => ?context,
    fun hlt howner => ?field⟩
  case bad => rw [exec_bufRead, readable_of_le hle]
  case foreign => rw [exec_bufRead, readable_of_foreign hlt howner]
  case context => rw [exec_bufRead, readable_of_worker hlt howner, onlyIn_of_ne hc]
  case field =>
    have hread := exec_bufRead_of_worker hlt howner
    refine ⟨hread .command, hread .length, fun off hoff => ?_⟩
    rw [hread]
    exact ⟨fieldRead_payload_of_lt_length hoff, fieldRead_payload_eq_next hoff⟩

/-- Settles O37: the range check comes before the context's. -/
theorem handleNamesABuffer : Obligations.HandleNamesABuffer :=
  fun _ _ c hc => ⟨fun hlt => exec_handle_of_lt hlt hc, fun hle => exec_handle_of_le hle c⟩

end Sys2Proof.Machine
end

section
/-! PROOFS. The outbound stream (R172, R173). What the workers compose and what the FrameWriter has sent or will send is
written by few operations: apart from the step in which `send` acquires the lock, each leaves the stream and its unsent rest
as they were together, and composes only frames that fit (`Quiet`). -/

namespace Sys2Proof.Machine

/-- The outbound stream with the unsent rest of the frame whose sender holds the lock (R173). -/
def State.outbound (s : State) : List Byte := s.tx ++ s.unsent

/-- A worker of `s` has composed `f` in its scratch buffer (R168). -/
def Composed (s : State) (f : Frame) : Prop := (∃ h, s.wdisp = .answering h f) ∨ s.wevt = .sending f

/-- From `s` to `t` the outbound stream with its unsent rest is the same, and what the workers compose anew fits. -/
structure Quiet (s t : State) : Prop where
  cfg_eq : t.cfg = s.cfg
  outbound_eq : t.outbound = s.outbound
  composed : ∀ f, Composed t f → Composed s f ∨ f.Fits s.cfg

/-- Everything an operation can do to the outbound stream: nothing, or begin a composed frame at the free lock (R172). -/
inductive OutboundStep (s : State) : State → Prop
  | quiet {t : State} (h : Quiet s t) : OutboundStep s t
  | starts (c : Ctx) {f : Frame} (hfree : s.writer = none) (hf : Composed s f) :
      OutboundStep s { s with writer := some { holder := c, rest := f.bytes }, out := .none }

/-! The invariant under each kind of step. -/

theorem composedFit_iff {s : State} : ComposedFit s ↔ ∀ f, Composed s f → f.Fits s.cfg := by
  refine ⟨fun ⟨hdisp, hevt⟩ f hf => ?_, fun h => ⟨fun x f hf => h f (.inl ⟨x, hf⟩), fun f hf => h f (.inr hf)⟩⟩
  rcases hf with ⟨x, hf⟩ | hf
  · exact hdisp x f hf
  · exact hevt f hf

theorem ComposedFit.quiet {s t : State} (h : ComposedFit s) (hq : Quiet s t) : ComposedFit t := by
  rw [composedFit_iff] at h ⊢
  rw [hq.cfg_eq]
  exact fun f hf => (hq.composed f hf).elim (h f) id

theorem WholeFrames.quiet {s t : State} (h : WholeFrames s) (hq : Quiet s t) : WholeFrames t := by
  obtain ⟨fs, hfit, hfs⟩ := h
  exact ⟨fs, hq.cfg_eq ▸ hfit, hq.outbound_eq.trans hfs⟩

/-- R172: the frame that `send` begins follows the whole frames before it. -/
theorem WholeFrames.starts {s : State} (h : WholeFrames s) (hfree : s.writer = none) (c : Ctx) {f : Frame}
    (hf : f.Fits s.cfg) : WholeFrames { s with writer := some { holder := c, rest := f.bytes }, out := .none } := by
  obtain ⟨fs, hfit, hfs⟩ := h
  have htx : s.tx = (fs.map Frame.bytes).flatten := by simpa [State.unsent, hfree] using hfs
  refine ⟨fs ++ [f], ?_, by simp [State.unsent, htx]⟩
  simpa [or_imp, forall_and] using ⟨hfit, hf⟩

theorem OutboundStep.keeps {s t : State} (h : OutboundStep s t) (hc : ComposedFit s) (hw : WholeFrames s) :
    ComposedFit t ∧ WholeFrames t := by
  cases h with
  | quiet hq => exact ⟨hc.quiet hq, hw.quiet hq⟩
  | starts c hfree hf => exact ⟨hc, hw.starts hfree c (composedFit_iff.1 hc _ hf)⟩

/-! What is quiet: an operation that leaves the workers' records and the FrameWriter alone, a new record, an answer. -/

/-- What the outbound stream depends on. -/
def State.sendPart (s : State) : Params × DispPhase × EvtPhase × Option Writer × List Byte :=
  (s.cfg, s.wdisp, s.wevt, s.writer, s.tx)

theorem Quiet.of_sendPart {s t : State} (h : t.sendPart = s.sendPart) : Quiet s t := by
  simp only [State.sendPart, Prod.mk.injEq] at h
  obtain ⟨hcfg, hdisp, hevt, hwriter, htx⟩ := h
  refine ⟨hcfg, by simp only [State.outbound, State.unsent, hwriter, htx], fun f hf => .inl ?_⟩
  simpa only [Composed, hdisp, hevt] using hf

theorem Quiet.refl (s : State) : Quiet s s := .of_sendPart rfl

theorem Quiet.trans {s t u : State} (h : Quiet s t) (h' : Quiet t u) : Quiet s u where
  cfg_eq := h'.cfg_eq.trans h.cfg_eq
  outbound_eq := h'.outbound_eq.trans h.outbound_eq
  composed f hf := (h'.composed f hf).elim (h.composed f) fun hfit => .inr (h.cfg_eq ▸ hfit)

theorem Quiet.withDisp (s : State) {d : DispPhase} (hd : ∀ h f, d = .answering h f → s.wdisp = d ∨ f.Fits s.cfg) :
    Quiet s { s with wdisp := d } where
  cfg_eq := rfl
  outbound_eq := rfl
  composed
    | f, .inl ⟨h, hf⟩ => (hd h f hf).imp_left fun hs => .inl ⟨h, hs.trans hf⟩
    | _, .inr hf => .inl (.inr hf)

theorem Quiet.withEvt (s : State) {e : EvtPhase} (he : ∀ f, e = .sending f → f.Fits s.cfg) :
    Quiet s { s with wevt := e } where
  cfg_eq := rfl
  outbound_eq := rfl
  composed
    | _, .inl hf => .inl (.inl hf)
    | f, .inr hf => .inr (he f hf)

theorem Quiet.compose {s u : State} (h : Quiet s u) (x : Nat) {f : Frame} (hf : f.Fits s.cfg) : Quiet s (u.compose x f) :=
  h.trans (.withDisp u fun _ _ he => .inr (by cases he; exact h.cfg_eq ▸ hf))

theorem answer_quiet {s t u : State} {o : PortOut} (h : answer o u = .next t) (hu : Quiet s u) : Quiet s t := by
  cases h
  exact hu.trans (.of_sendPart rfl)

/-! The frames that are composed fit (R65, R164, R171). -/

theorem statusFrame_fits (p : Params) (tag : Byte) (ok : Bool) : (statusFrame tag ok).Fits p := by
  simp [Frame.Fits, statusFrame]

theorem eventFrame_fits (p : Params) (pin : Half) (rising : Bool) : (eventFrame pin rising).Fits p := by
  simp [Frame.Fits, eventFrame]

theorem emptyFrame_fits (p : Params) (tag : Byte) : Frame.Fits p { tag := tag, payload := [] } := by
  simp [Frame.Fits]

theorem takeFrame_fits {p : Params} (hok : p.ok) (tag : Byte) (bytes : List Byte) :
    Frame.Fits p { tag := tag, payload := bytes.take p.maxPayload } := by
  have ⟨_, _, hmax, _⟩ := hok
  have hle : (bytes.take p.maxPayload).length ≤ p.maxPayload := List.length_take_le _ _
  exact ⟨hle.trans (Nat.le_max_left _ _), by simp only; omega⟩

/-! The arms of the dispatcher (R163 to R167) and the event worker (R170). -/

section
variable {s t : State}

theorem State.called_quiet (s : State) (c : AdapterCall) : Quiet s (s.called c) := .of_sendPart rfl

theorem State.adaptersReset_quiet (s : State) : Quiet s s.adaptersReset := .of_sendPart rfl

theorem State.spiSetup_quiet (s : State) (freq : Word) (mode : Byte) (pins : List Half) :
    Quiet s (s.spiSetup freq mode pins).2 := by
  simp only [State.spiSetup]
  split <;> exact .of_sendPart rfl

theorem State.gpioRegister_quiet (s : State) (pin : Half) (mode : Byte) : Quiet s (s.gpioRegister pin mode).2 := by
  simp only [State.gpioRegister]
  split <;> exact .of_sendPart rfl

theorem dispatchSpiSetup_quiet {tag : Byte} (h : dispatchSpiSetup tag s = .next t) : Quiet s t := by
  obtain ⟨p, -, -, -, -, harm⟩ := dispatching_eq_next.1 h
  split at harm
  · exact answer_quiet harm ((Quiet.refl s).compose p (statusFrame_fits _ _ _))
  · exact answer_quiet harm (.compose (s.spiSetup_quiet _ _ _) p (statusFrame_fits _ _ _))

theorem dispatchSpiTransfer_quiet {tag : Byte} (hok : s.cfg.ok) (h : dispatchSpiTransfer tag s = .next t) :
    Quiet s t := by
  obtain ⟨p, -, -, -, -, harm⟩ := dispatching_eq_next.1 h
  split at harm
  · exact answer_quiet harm ((Quiet.refl s).compose p (emptyFrame_fits _ 0x04))
  · exact answer_quiet harm (.compose (s.called_quiet _) p (takeFrame_fits hok 0x04 _))

theorem dispatchInterruptRegister_quiet {tag : Byte} (h : dispatchInterruptRegister tag s = .next t) : Quiet s t := by
  obtain ⟨p, -, -, -, -, harm⟩ := dispatching_eq_next.1 h
  split at harm
  · exact answer_quiet harm ((Quiet.refl s).compose p (statusFrame_fits _ _ _))
  · split at harm
    · exact answer_quiet harm ((Quiet.refl s).compose p (statusFrame_fits _ _ _))
    · exact answer_quiet harm (.compose (s.gpioRegister_quiet _ _) p (statusFrame_fits _ _ _))

theorem dispatchWireReset_quiet {tag : Byte} (h : dispatchWireReset tag s = .next t) : Quiet s t := by
  obtain ⟨p, -, -, -, -, harm⟩ := dispatching_eq_next.1 h
  exact answer_quiet harm (.compose s.adaptersReset_quiet p (statusFrame_fits _ _ _))

theorem dispatchUnknown_quiet {tag : Byte} (h : dispatchUnknown tag s = .next t) : Quiet s t := by
  obtain ⟨p, -, -, -, -, harm⟩ := dispatching_eq_next.1 h
  exact answer_quiet harm (.withDisp s (by simp))

theorem decodePair_quiet (pin : Half) (rising : Bool) (s : State) : Quiet s (decodePair pin rising s) := by
  simp only [decodePair]
  split
  · split
    · exact .withEvt s fun f hf => by cases hf; exact eventFrame_fits _ _ _
    · exact .refl s
  all_goals exact .refl s

/-- R172: `send` of a composed frame begins it at the free lock; every later step of it is quiet. -/
theorem sendStep_outbound {c : Ctx} {f : Frame} {done : State → State} (hf : Composed s f)
    (hdone : ∀ u, Quiet u (done u)) (h : sendStep c f done s = .next t) : OutboundStep s t := by
  rcases sendStep_cases c f done s with ⟨hfree, hs⟩ | ⟨w, -, -, hs⟩ | ⟨hw, hs⟩ | ⟨b, bs, hw, hs⟩ <;> rw [hs] at h
  · cases h
    exact .starts c hfree hf
  · exact .quiet (answer_quiet h (.refl s))
  · have hend : Quiet s { s with writer := none } := ⟨rfl, by simp [State.outbound, State.unsent, hw], fun _ => .inl⟩
    exact .quiet (answer_quiet h (hend.trans (hdone _)))
  · have hbyte : Quiet s { s with tx := s.tx ++ [b], writer := some { holder := c, rest := bs } } :=
      ⟨rfl, by simp [State.outbound, State.unsent, hw], fun _ => .inl⟩
    exact .quiet (answer_quiet h hbyte)

theorem dispatchOrSend_outbound {tag : Byte} (h : dispatchOrSend tag s = .next t) : OutboundStep s t := by
  simp only [dispatchOrSend] at h
  split at h
  · next x f hs =>
    split at h
    · exact sendStep_outbound (.inl ⟨x, hs⟩) (fun u => .withDisp u (by simp)) h
    · cases h
  all_goals exact .quiet (dispatchUnknown_quiet h)

theorem forwardEvent_outbound (h : forwardEvent s = .next t) : OutboundStep s t := by
  simp only [forwardEvent] at h
  split at h
  · next f hs => exact sendStep_outbound (.inr hs) (fun u => .withEvt u (by simp)) h
  all_goals cases h

/-! The parser does not touch the outbound side (R105). -/

theorem emitPacket_sendPart (h : emitPacket s = .next t) : t.sendPart = s.sendPart := by
  rcases emitPacket_eq_next h with ⟨-, rfl⟩ | ⟨-, -, -, rfl⟩ <;> rfl

theorem abortFrame_sendPart (h : abortFrame s = .next t) : t.sendPart = s.sendPart := by
  obtain ⟨-, -, -, rfl⟩ := abortFrame_eq_next.1 h
  rfl

theorem Received.sendPart_eq {b : Byte} (h : Received b s t) : t.sendPart = s.sendPart := by
  cases h with
  | oversize _ _ ht => exact (abortFrame_sendPart ht).trans rfl
  | empty _ _ _ ht | lastByte _ _ _ ht => exact (emitPacket_sendPart ht).trans rfl
  | discarded | reopened | opened | lengthLow | lengthHigh | dataByte => rfl

theorem Quiet.silent {r : Result} (h : silent r = .next t) (hr : ∀ u, r = .next u → u.sendPart = s.sendPart) :
    Quiet s t := by
  obtain ⟨u, hu, rfl⟩ := silent_eq_next h
  exact .of_sendPart (hr u hu)

theorem receive_quiet {b : Byte} (h : silent (receive b s) = .next t) : Quiet s t :=
  .silent h fun _ hu => (receive_eq_next hu).sendPart_eq

theorem atPosition_quiet {ps : ParserState} {row : Byte → State → Result} {b : Byte}
    (hrow : s.ps = ps → row b s = receive b s) (h : silent (atPosition ps row b s) = .next t) : Quiet s t :=
  receive_quiet (atPosition_eq_receive hrow ▸ h)

/-! Every row of the table. -/

theorem tagByte_outbound {b : Byte} {arm : Byte → State → Result} {c : Ctx}
    (harm : arm b s = .next t → OutboundStep s t) (h : tagByte b arm c s = .next t) : OutboundStep s t := by
  cases c with
  | irx => exact .quiet (atPosition_quiet (fun hps => by simp [receive, hps]) h)
  | wdisp => exact harm h
  | igpio | wevt | platform | reentry => cases h

theorem interruptEvent_outbound {c : Ctx} (h : execInterruptEvent c s = .next t) : OutboundStep s t := by
  simp only [execInterruptEvent] at h
  split at h
  · exact forwardEvent_outbound h
  all_goals exact tagByte_outbound (fun harm => .quiet (dispatchUnknown_quiet harm)) h

theorem edge_quiet {c : Ctx} {pin : Half} {rising : Bool} (h : execEdge c pin rising s = .next t) : Quiet s t := by
  obtain ⟨rfl, hr⟩ := onlyIn_eq_next h
  rcases eqPut_cases s (encodeEvent pin rising) with ⟨-, hp⟩ | ⟨-, hp⟩ <;> simp only [hp] at hr <;>
    exact answer_quiet hr (.of_sendPart rfl)

theorem poolAlloc_quiet {c : Ctx} (h : execPoolAlloc c s = .next t) : Quiet s t := by
  obtain ⟨rfl, hr⟩ := onlyIn_eq_next h
  rcases allocate_cases s with ⟨-, ha⟩ | ⟨b, -, -, -, ha⟩ <;> simp only [ha] at hr <;>
    exact answer_quiet hr (.of_sendPart rfl)

/-- A release may end the dispatcher's processing step, but not the sending of its answer (R162). -/
theorem DispPhase.forget_answering {h x : Nat} {d : DispPhase} {f : Frame} (hd : d.forget h = .answering x f) :
    d = d.forget h := by
  cases d with
  | answering => rfl
  | idle => rfl
  | holding | answered =>
    simp only [DispPhase.forget] at hd
    split at hd <;> cases hd

theorem poolRelease_quiet {c : Ctx} {x : Nat} (h : execPoolRelease c x s = .next t) : Quiet s t := by
  cases c with
  | irx =>
    refine .silent h fun u hu => ?_
    obtain ⟨-, -, -, rfl⟩ := release_eq_next.1 hu
    rfl
  | wdisp =>
    obtain ⟨u, hu, ht⟩ := andThen_eq_next h
    obtain ⟨-, -, -, rfl⟩ := release_eq_next.1 hu
    have hgive : Quiet s (s.giveBack x) := .of_sendPart rfl
    exact answer_quiet ht (hgive.trans (.withDisp _ fun _ _ hd => .inl (DispPhase.forget_answering hd)))
  | igpio | wevt | platform | reentry =>
    obtain ⟨_, -, ⟨⟩⟩ := andThen_eq_next h

theorem pqTryPut_quiet {c : Ctx} {x : Nat} (h : execPqTryPut c x s = .next t) : Quiet s t := by
  obtain ⟨rfl, hr⟩ := onlyIn_eq_next h
  rcases pqPut_cases s x with ⟨-, hp⟩ | ⟨-, hp⟩ <;> simp only [hp] at hr <;> exact answer_quiet hr (.of_sendPart rfl)

theorem eqTryPut_quiet {c : Ctx} {ev : Word} (h : execEqTryPut c ev s = .next t) : Quiet s t := by
  obtain ⟨rfl, hr⟩ := onlyIn_eq_next h
  rcases eqPut_cases s ev with ⟨-, hp⟩ | ⟨-, hp⟩ <;> simp only [hp] at hr <;> exact answer_quiet hr (.of_sendPart rfl)

/-- R93: the handle got is not answered yet, whatever the dispatcher's record was. -/
theorem pqGet_quiet {c : Ctx} (h : execPqGet c s = .next t) : Quiet s t := by
  obtain ⟨rfl, hr⟩ := onlyIn_eq_next h
  split at hr
  · next x u hu =>
    obtain ⟨-, -, rfl⟩ := pqTake_eq_some hu
    have hdeq : Quiet s (s.dequeue x) := .of_sendPart rfl
    exact answer_quiet hr (hdeq.trans (.withDisp _ (by simp)))
  · exact answer_quiet hr (.refl s)

theorem eqGet_quiet {c : Ctx} (h : execEqGet c s = .next t) : Quiet s t := by
  obtain ⟨rfl, hr⟩ := onlyIn_eq_next h
  split at hr
  · next ev u hu =>
    obtain ⟨-, -, rfl⟩ := eqTake_eq_some hu
    have hpop : Quiet s { s with evq := s.evq.pop s.cfg.eqCap } := .of_sendPart rfl
    exact answer_quiet hr (hpop.trans (.withEvt _ (by simp)))
  · exact answer_quiet hr (.refl s)

theorem fieldRead_quiet {x : Nat} {f : BufField} (h : fieldRead s x f = .next t) : Quiet s t := by
  cases f with
  | command | length => exact answer_quiet h (.refl s)
  | payload off =>
    simp only [fieldRead] at h
    split at h
    · cases h
    · split at h <;> exact answer_quiet h (.refl s)

theorem bufRead_quiet {c : Ctx} {x : Nat} {f : BufField} (h : execBufRead c x f s = .next t) : Quiet s t := by
  obtain ⟨-, -, hread⟩ := readable_eq_next h
  exact fieldRead_quiet (onlyIn_eq_next hread).2

theorem handle_quiet {c : Ctx} {x : Nat} (h : execHandle c x s = .next t) : Quiet s t := by
  simp only [execHandle] at h
  split at h
  · cases h
  · cases c with
    | irx | wdisp => exact answer_quiet h (.refl s)
    | igpio | wevt | platform | reentry => cases h

theorem eventWord_quiet {c : Ctx} {rising : Bool} {pin : Half} (h : execEventWord c rising pin s = .next t) :
    Quiet s t := by
  cases c with
  | igpio => exact answer_quiet h (.refl s)
  | wevt => exact answer_quiet h (decodePair_quiet pin rising s)
  | irx | wdisp | platform | reentry => cases h

/-- Everything an operation of the table can do to the outbound stream. -/
theorem exec_outbound {i : Instr} (hok : s.cfg.ok) (h : exec i s = .next t) : OutboundStep s t := by
  cases i with
  | spiSetup c => exact tagByte_outbound (fun harm => .quiet (dispatchSpiSetup_quiet harm)) h
  | spiTransfer c => exact tagByte_outbound (fun harm => .quiet (dispatchSpiTransfer_quiet hok harm)) h
  | interruptRegister c => exact tagByte_outbound (fun harm => .quiet (dispatchInterruptRegister_quiet harm)) h
  | wireReset c => exact tagByte_outbound (fun harm => .quiet (dispatchWireReset_quiet harm)) h
  | interruptEvent c => exact interruptEvent_outbound h
  | spiSetupAnswer c | spiTransferAnswer c | interruptRegisterAnswer c | resetAnswer c =>
    exact tagByte_outbound dispatchOrSend_outbound h
  | invalidTag00 c | invalidTag0A c x | invalidTag0C c x | invalidTag10 c x | invalidTag20 c x | invalidTag40 c x
  | invalidTag80 c x => exact tagByte_outbound (fun harm => .quiet (dispatchUnknown_quiet harm)) h
  | rxReadLenLow b | rxReadLenHigh b | rxReadData b =>
    exact .quiet (atPosition_quiet (fun hps => by simp [receive, hps]) h)
  | rxByte c b => exact .quiet (receive_quiet (onlyIn_eq_next h).2)
  | edge c pin rising => exact .quiet (edge_quiet h)
  | poolAlloc c => exact .quiet (poolAlloc_quiet h)
  | poolRelease c x => exact .quiet (poolRelease_quiet h)
  | pqTryPut c x => exact .quiet (pqTryPut_quiet h)
  | pqGet c => exact .quiet (pqGet_quiet h)
  | eqTryPut c ev => exact .quiet (eqTryPut_quiet h)
  | eqGet c => exact .quiet (eqGet_quiet h)
  | bufRead c x f => exact .quiet (bufRead_quiet h)
  | blockReset c => exact .quiet (answer_quiet (onlyIn_eq_next h).2 (.of_sendPart rfl))
  | emit c => exact .quiet (.silent (onlyIn_eq_next h).2 fun _ => emitPacket_sendPart)
  | abort c => exact .quiet (.silent (onlyIn_eq_next h).2 fun _ => abortFrame_sendPart)
  | handle c x => exact .quiet (handle_quiet h)
  | eventWord c rising pin => exact .quiet (eventWord_quiet h)

end

/-- At boot nothing is composed and nothing sent. -/
theorem boot_outbound (p : Params) : ComposedFit (State.boot p) ∧ WholeFrames (State.boot p) :=
  ⟨⟨nofun, nofun⟩, [], nofun, rfl⟩

/-- Settles O60: by what an operation can do to the outbound stream. The trace is no part of it. -/
theorem outboundIsWholeFrames : Obligations.OutboundIsWholeFrames := by
  refine ⟨boot_outbound, fun s t hok hc hw hstep => ?_⟩
  rcases step_eq_next hstep with ⟨-, rfl⟩ | ⟨x, rest, i, -, -, he⟩
  · exact ⟨hc, hw⟩
  · exact (exec_outbound (s := { s with trace := rest }) hok he).keeps hc hw

end Sys2Proof.Machine
end

section
/-! PROOFS. Received bytes (R68, R105): a row of the byte space, met by `IRX`, is RX_BYTE of the row's own byte; so what each
row does follows from what RX_BYTE does with that byte. -/

namespace Sys2Proof.Machine

theorem exec_rxByte_irx (b : Byte) (s : State) : exec (.rxByte .irx b) s = silent (receive b s) := rfl

/-- A row that a byte selects by its position means what RX_BYTE means there (R68). -/
theorem silent_atPosition {ps : ParserState} {row : Byte → State → Result} {b : Byte} {s : State}
    (hrow : s.ps = ps → row b s = receive b s) : silent (atPosition ps row b s) = silent (receive b s) :=
  congrArg silent (atPosition_eq_receive hrow)

theorem byteTxn_eq_irx {c : Ctx} {k b : Byte} (h : byteTxn c k = byteTxn .irx b) : c = .irx ∧ k = b := by
  simp only [byteTxn, Txn.mk.injEq] at h
  obtain ⟨-, hc, hdata⟩ := h
  exact ⟨hc, BitVec.eq_of_toNat_eq hdata⟩

/-- An operation whose transaction is byte `b` received on RX does what RX_BYTE does with `b`, whichever row it is. -/
theorem exec_eq_rxByte {i : Instr} {b : Byte} (h : encode i = byteTxn .irx b) (s : State) :
    exec i s = exec (.rxByte .irx b) s := by
  rw [exec_rxByte_irx]
  cases i with
  | spiSetup | spiSetupAnswer | spiTransfer | spiTransferAnswer | interruptRegister | interruptRegisterAnswer
  | interruptEvent | wireReset | resetAnswer | invalidTag00 | invalidTag0A | invalidTag0C | invalidTag10 | invalidTag20
  | invalidTag40 | invalidTag80 =>
    obtain ⟨rfl, rfl⟩ := byteTxn_eq_irx h
    exact silent_atPosition fun hps => by simp [receive, hps]
  | rxReadLenLow | rxReadLenHigh | rxReadData =>
    obtain ⟨-, rfl⟩ := byteTxn_eq_irx (c := .irx) h
    exact silent_atPosition fun hps => by simp [receive, hps]
  | rxByte | edge | poolAlloc | poolRelease | pqTryPut | pqGet | eqTryPut | eqGet | bufRead | blockReset | emit | abort
  | handle | eventWord => cases congrArg Txn.port h

/-- The rows of R63 and R69 cover the byte space, each byte in the row that encodes to it. -/
theorem encode_decodeTag (b : Byte) : encode (decodeTag .irx b) = byteTxn .irx b := by
  revert b
  decide

theorem encode_decodeByte (ps : ParserState) (b : Byte) : encode (decodeByte ps b) = byteTxn .irx b := by
  cases ps with
  | readCommand => exact encode_decodeTag b
  | readLenLow | readLenHigh | readData => rfl

/-- Settles O13: in each parser state the decoder picks a row whose transaction is the byte. -/
theorem decodedByteMeansRxByte : Obligations.DecodedByteMeansRxByte :=
  fun s b => exec_eq_rxByte (encode_decodeByte s.ps b) s

/-! A tag received in ReadCommand (R106, R108). -/

section
variable {s : State} {b : Byte}

/-- R106: an invalid tag is discarded. -/
theorem exec_rxByte_of_invalid (hps : s.ps = .readCommand) (htag : validTag s.cfg b = false) :
    exec (.rxByte .irx b) s = .next { s with log := s.log ++ [.invalidTag], out := .none } := by
  have hrx : receive b s = .next (s.drop .invalidTag) := by simp [receive, hps, rxReadCommand, htag]
  rw [exec_rxByte_irx, hrx]
  rfl

/-- R81, R108: a valid tag takes a free buffer and stores itself there. -/
theorem exec_rxByte_of_valid (hps : s.ps = .readCommand) (hheld : s.held = false) (hroom : s.exhausted = false)
    (htag : validTag s.cfg b = true) : ∃ h, h < s.cfg.nPackets ∧ s.isFree h = true ∧ exec (.rxByte .irx b) s =
      .next { ({ s.takeBuffer h with cur := h, held := true }).setCommand h b with ps := .readLenLow, out := .none } := by
  rcases allocate_cases s with ⟨hex, -⟩ | ⟨h, -, hlt, hfree, halloc⟩
  · cases hroom.symm.trans hex
  · refine ⟨h, hlt, hfree, ?_⟩
    rw [exec_rxByte_irx]
    simp only [receive, hps, rxReadCommand, htag, hheld, halloc, storeCommand, withCur]
    simp [hlt, silent, answer]

/-- What the allocation and the store leave is an opened frame, with one byte of the buffer space written. -/
theorem opensFrame_rxByte (hps : s.ps = .readCommand) (hheld : s.held = false) (hroom : s.exhausted = false)
    (htag : validTag s.cfg b = true) : OpensFrame (.rxByte .irx b) b s := by
  obtain ⟨h, hlt, hfree, hexec⟩ := exec_rxByte_of_valid hps hheld hroom htag
  refine ⟨h, _, hexec, hlt, hfree, rfl, State.command_setCommand _ h b, fun a ha => ?_⟩
  exact State.byteAt_setByte_other s b (by simpa using ha)

end

theorem OpensFrame.congr {i j : Instr} {b : Byte} {s : State} (h : OpensFrame i b s) (hij : exec j s = exec i s) :
    OpensFrame j b s := by
  rwa [OpensFrame, hij]

theorem encode_tagRows : ∀ r ∈ tagRows .irx, encode r.1 = byteTxn .irx r.2 := by decide

/-- Settles O7: each of the nine rows is RX_BYTE of its own byte. -/
theorem tagRowsOpenAFrame : Obligations.TagRowsOpenAFrame :=
  fun s hps hheld hroom r hr htag =>
    (opensFrame_rxByte hps hheld hroom htag).congr (exec_eq_rxByte (encode_tagRows r hr) s)

/-! The invalid-tag rows (R69): 0x00 is below the tag range, and the bits that any other row's mask fixes put its bytes above. -/

theorem le_toNat_append {n k : Nat} (hi : BitVec n) (lo : BitVec k) : hi.toNat * 2 ^ k ≤ (hi ++ lo).toNat := by
  rw [BitVec.toNat_append, ← Nat.shiftLeft_eq]
  exact Nat.left_le_or

theorem validTag_append_eq_false {p : Params} {n k : Nat} {hi : BitVec n} (lo : BitVec k) (hn : n + k = 8)
    (hhi : p.tagMax < hi.toNat * 2 ^ k) : validTag p ((hi ++ lo).cast hn) = false := by
  have hle : hi.toNat * 2 ^ k ≤ ((hi ++ lo).cast hn).toNat := le_toNat_append hi lo
  exact decide_eq_false fun ⟨_, hmax⟩ => by omega

/-- Settles O4: every byte of the rows is an invalid tag. -/
theorem invalidTagRowsAreDiscarded : Obligations.InvalidTagRowsAreDiscarded := by
  rintro s hps hmin hmax t rfl
  have hrow : ∀ {i : Instr} {b : Byte}, encode i = byteTxn .irx b → validTag s.cfg b = false →
      exec i s = .next { s with log := s.log ++ [.invalidTag], out := .none } := fun hi hb =>
    (exec_eq_rxByte hi s).trans (exec_rxByte_of_invalid hps hb)
  have hlow : validTag s.cfg 0x00 = false := by simp [validTag, hmin]
  have hhigh : ∀ {n k : Nat} {hi : BitVec n} (lo : BitVec k) (hn : n + k = 8), 0x09 < hi.toNat * 2 ^ k →
      validTag s.cfg ((hi ++ lo).cast hn) = false := fun lo hn h => validTag_append_eq_false lo hn (hmax ▸ h)
  refine ⟨hrow rfl hlow, ?_, ?_, ?_, ?_, ?_, ?_⟩ <;> exact fun x => hrow rfl (hhigh x rfl (by decide))

end Sys2Proof.Machine
end

section
/-! PROOFS. Encodings written out (R63, R69, R77, R130, R131). -/

namespace Sys2Proof.Machine

/-- Settles O55, each transaction by running the decoder on it. -/
theorem sampleTransactionsDecode : Obligations.SampleTransactionsDecode := ⟨rfl, rfl, rfl, rfl, rfl⟩

/-- R130 bit by bit: the pin below, the direction in bit 16, zeros above. -/
theorem getLsbD_encodeEvent (pin : Half) (rising : Bool) (i : Nat) :
    (encodeEvent pin rising).getLsbD i = if i < 16 then pin.getLsbD i else decide (i = 16) && rising := by
  simp only [encodeEvent, BitVec.getLsbD_setWidth, BitVec.getLsbD_append, BitVec.getLsbD_ofBool]
  by_cases hpin : i < 16
  · have hword : i < 32 := by omega
    simp [hpin, hword]
  · by_cases hdir : i = 16
    · simp [hdir]
    · have habove : i - 16 ≠ 0 := by omega
      simp [hpin, hdir, habove]

/-- Settles O38: the three fields of the word, each by its bits. -/
theorem eventWordIsEncoded : Obligations.EventWordIsEncoded := by
  intro s pin rising
  refine ⟨encodeEvent pin rising, rfl, BitVec.eq_of_getLsbD_eq fun i hi => ?pin, ?rising,
    BitVec.eq_of_getLsbD_eq fun i hi => ?above⟩
  case pin => simp [getLsbD_encodeEvent, hi]
  case rising => exact getLsbD_encodeEvent pin rising 16
  case above =>
    have hpin : ¬17 + i < 16 := by omega
    have hdir : 17 + i ≠ 16 := by omega
    simp [getLsbD_encodeEvent, hpin, hdir]

end Sys2Proof.Machine
end

section
/-! PROOFS. The arms of the dispatcher (R163 to R165, R167): with its packet in hand, an arm reads its little-endian fields
(R41, R65), makes at most one adapter call, and composes its answer. -/

namespace Sys2Proof.Machine

/-- The dispatcher takes the arm of the command it holds. -/
theorem dispatching_of_holds {s : State} {h : Nat} {tag : Byte} (hh : dispatcherHolds s h tag) (arm : Nat → Result) :
    dispatching tag s arm = arm h := by
  obtain ⟨hdisp, hlt, howner, hcmd⟩ := hh
  simp only [dispatching, hdisp, readable_of_worker hlt howner, if_pos hcmd]

/-! Little-endian fields. -/

theorem toNat_append_eq_add {n k : Nat} (hi : BitVec n) (lo : BitVec k) :
    (hi ++ lo).toNat = hi.toNat * 2 ^ k + lo.toNat := by
  rw [BitVec.toNat_append, ← Nat.shiftLeft_add_eq_or_of_lt lo.isLt, Nat.shiftLeft_eq]

theorem State.memRead_two (s : State) (h off : Nat) :
    s.memRead h off 2 = (s.payload h off).toNat + 256 * (s.payload h (off + 1)).toNat := rfl

theorem State.memRead_four (s : State) (h off : Nat) : s.memRead h off 4 = (s.payload h off).toNat +
    256 * ((s.payload h (off + 1)).toNat + 256 * ((s.payload h (off + 2)).toNat + 256 * (s.payload h (off + 3)).toNat)) :=
  rfl

theorem payloadHalf_eq_append (s : State) (h off : Nat) :
    s.payloadHalf h off = s.payload h (off + 1) ++ s.payload h off := by
  apply BitVec.eq_of_toNat_eq
  rw [State.payloadHalf, State.memRead_two, BitVec.toNat_ofNat, toNat_append_eq_add]
  omega

theorem payloadWord_eq_append (s : State) (h off : Nat) : s.payloadWord h off =
    s.payload h (off + 3) ++ s.payload h (off + 2) ++ s.payload h (off + 1) ++ s.payload h off := by
  apply BitVec.eq_of_toNat_eq
  rw [State.payloadWord, State.memRead_four, BitVec.toNat_ofNat]
  simp only [toNat_append_eq_add]
  omega

theorem length_payloadBytes (s : State) (h off n : Nat) : (s.payloadBytes h off n).length = n := by
  simp [State.payloadBytes]

theorem getElem?_payloadBytes {s : State} {h off n i : Nat} (hi : i < n) :
    (s.payloadBytes h off n)[i]? = some (s.payload h (off + i)) := by
  simp [State.payloadBytes, hi]

theorem length_selPins (s : State) (h : Nat) : (s.selPins h).length = ((s.length h).toNat - 5) / 2 := by
  simp [State.selPins]

theorem getElem?_selPins {s : State} {h i : Nat} (hi : i < (s.selPins h).length) :
    (s.selPins h)[i]? = some (s.payload h (6 + 2 * i) ++ s.payload h (5 + 2 * i)) := by
  rw [length_selPins] at hi
  have hhigh : 5 + 2 * i + 1 = 6 + 2 * i := by omega
  simp [State.selPins, hi, payloadHalf_eq_append, hhigh]

/-! Registrations (R179). -/

theorem mem_addPin_of_mem {pins : List (Half × Byte)} {r : Half × Byte} (hr : r ∈ pins) (pin : Half) (mode : Byte) :
    r ∈ addPin pins pin mode := by
  simp only [addPin]
  split
  · exact hr
  · exact List.mem_append_left _ hr

theorem exists_mem_addPin (pins : List (Half × Byte)) (pin : Half) (mode : Byte) :
    ∃ m, (pin, m) ∈ addPin pins pin mode := by
  simp only [addPin]
  split
  · next hany =>
    obtain ⟨⟨_, m⟩, hr, hpin⟩ := List.any_eq_true.1 hany
    cases of_decide_eq_true hpin
    exact ⟨m, hr⟩
  · exact ⟨mode, by simp⟩

theorem mem_foldl_addPin {r : Half × Byte} (mode : Byte) (sel : List Half) {pins : List (Half × Byte)} (hr : r ∈ pins) :
    r ∈ sel.foldl (fun ps pin => addPin ps pin mode) pins := by
  induction sel generalizing pins with
  | nil => exact hr
  | cons pin sel ih => exact ih (mem_addPin_of_mem hr pin mode)

/-- Every selected pin is registered after a setup that succeeds, by it or before it. -/
theorem exists_mem_foldl_addPin {mode : Byte} {sel : List Half} {pin : Half} (hpin : pin ∈ sel)
    (pins : List (Half × Byte)) : ∃ m, (pin, m) ∈ sel.foldl (fun ps pin => addPin ps pin mode) pins := by
  induction sel generalizing pins with
  | nil => cases hpin
  | cons p sel ih =>
    rcases List.mem_cons.1 hpin with rfl | hpin
    · obtain ⟨m, hm⟩ := exists_mem_addPin pins pin mode
      exact ⟨m, mem_foldl_addPin mode sel hm⟩
    · exact ih hpin _

/-- A pin that is not registered yet is added at the end. -/
theorem addPin_of_not_any {pins : List (Half × Byte)} {pin : Half} (h : pins.any (fun r => r.1 = pin) = false)
    (mode : Byte) : addPin pins pin mode = pins ++ [(pin, mode)] := by
  simp [addPin, h]

theorem any_pin_eq_false {pins : List (Half × Byte)} {pin : Half} :
    pins.any (fun r => r.1 = pin) = false ↔ ∀ m, (pin, m) ∉ pins := by
  rw [List.any_eq_false]
  exact ⟨fun h m hm => h _ hm (by simp), fun h r hr hpin => h r.2 (by rwa [← of_decide_eq_true hpin])⟩

/-! The adapter calls (R177, R178): each is recorded, uses up its reply, and registers what it accepted. -/

theorem spiSetup_snd (s : State) (freq : Word) (mode : Byte) (pins : List Half) : (s.spiSetup freq mode pins).2 =
    { s.called (.spiSetup freq mode pins) with
      spiPins := if s.nextReply.ok then pins.foldl (fun r pin => addPin r pin mode) s.spiPins else s.spiPins } := by
  simp only [State.spiSetup]
  split <;> rfl

theorem gpioRegister_fst_iff {s : State} {pin : Half} {mode : Byte} :
    (s.gpioRegister pin mode).1 = true ↔ s.nextReply.ok = true ∧ ∀ m, (pin, m) ∉ s.gpioPins := by
  simp only [State.gpioRegister, Bool.and_eq_true, Bool.not_eq_true', any_pin_eq_false]

theorem gpioRegister_snd (s : State) (pin : Half) (mode : Byte) : (s.gpioRegister pin mode).2 =
    { s.called (.gpioRegister pin mode) with
      gpioPins := if (s.gpioRegister pin mode).1 then s.gpioPins ++ [(pin, mode)] else s.gpioPins } := by
  by_cases hok : (s.gpioRegister pin mode).1 = true
  · have hnew := addPin_of_not_any (any_pin_eq_false.2 (gpioRegister_fst_iff.1 hok).2) mode
    rw [if_pos hok, ← hnew]
    exact if_pos hok
  · rw [if_neg hok]
    exact if_neg hok

/-- R164: the receive buffer is as long as what is sent, and holds the adapter's bytes where it wrote them. -/
theorem length_spiTransfer_fst (s : State) (pin : Half) (bytes : List Byte) :
    (s.spiTransfer pin bytes).1.length = bytes.length := by
  simp [State.spiTransfer]

theorem getElem?_spiTransfer_fst {s : State} {bytes : List Byte} {i : Nat} {v : Byte} (pin : Half)
    (hi : i < bytes.length) (hv : s.nextReply.rx[i]? = some v) : (s.spiTransfer pin bytes).1[i]? = some v := by
  simp [State.spiTransfer, hi, hv]

/-! The arms of the four kinds of command. -/

section
variable {s : State} {h : Nat}

theorem exec_spiSetup_of_holds (hh : dispatcherHolds s h 0x01) : exec (.spiSetup .wdisp) s =
    if (s.length h).toNat < 7 then answer .none (s.compose h (statusFrame 0x02 false))
    else answer .none ((s.spiSetup (s.payloadWord h 0) (s.payload h 4) (s.selPins h)).2.compose h
      (statusFrame 0x02 s.nextReply.ok)) :=
  dispatching_of_holds hh _

theorem exec_spiTransfer_of_holds (hh : dispatcherHolds s h 0x03) : exec (.spiTransfer .wdisp) s =
    if (s.length h).toNat < 2 then answer .none (s.compose h { tag := 0x04, payload := [] })
    else
      answer .none ((s.called (.spiTransfer (s.payloadHalf h 0) (s.payloadBytes h 2 ((s.length h).toNat - 2)))).compose h
        { tag := 0x04
          payload := (s.spiTransfer (s.payloadHalf h 0) (s.payloadBytes h 2 ((s.length h).toNat - 2))).1.take
            s.cfg.maxPayload }) :=
  dispatching_of_holds hh _

theorem exec_interruptRegister_of_holds (hh : dispatcherHolds s h 0x05) : exec (.interruptRegister .wdisp) s =
    if s.length h ≠ 3 then answer .none (s.compose h (statusFrame 0x06 false))
    else if s.payload h 2 < 1 ∨ 3 < s.payload h 2 then answer .none (s.compose h (statusFrame 0x06 false))
    else answer .none ((s.gpioRegister (s.payloadHalf h 0) (s.payload h 2)).2.compose h
      (statusFrame 0x06 (s.gpioRegister (s.payloadHalf h 0) (s.payload h 2)).1)) :=
  dispatching_of_holds hh _

theorem dispatchUnknown_of_holds {tag : Byte} (hh : dispatcherHolds s h tag) :
    dispatchUnknown tag s = .next { s with wdisp := .answered h, out := .none } :=
  dispatching_of_holds hh _

/-- A device→host tag in a packet held is no answer being sent (R72). -/
theorem dispatchOrSend_of_holds {tag : Byte} (hh : dispatcherHolds s h tag) :
    dispatchOrSend tag s = .next { s with wdisp := .answered h, out := .none } := by
  have ⟨hdisp, _⟩ := hh
  rw [dispatchOrSend, hdisp]
  exact dispatchUnknown_of_holds hh

end

/-- Settles O39: the fields of the payload, then the call and what it registers. -/
theorem spiSetupIsDispatched : Obligations.SpiSetupIsDispatched := by
  intro s h hh
  rw [exec_spiSetup_of_holds hh]
  refine ⟨fun hshort => if_pos hshort, fun hlen => ?_⟩
  rw [if_neg (Nat.not_lt.2 hlen), spiSetup_snd, payloadWord_eq_append]
  refine ⟨_, s.selPins h, rfl, rfl, length_selPins s h, fun i => getElem?_selPins, fun hno => ?refused,
    fun hok pin hpin => ?registered⟩
  case refused => exact if_neg (Bool.eq_false_iff.1 hno)
  case registered =>
    obtain ⟨m, hm⟩ := exists_mem_foldl_addPin (mode := s.payload h 4) hpin s.spiPins
    exact ⟨m, by simpa [State.compose, hok] using hm⟩

/-- Settles O40: a packet within `MAX_PAYLOAD` leaves the answer uncut. -/
theorem spiTransferIsDispatched : Obligations.SpiTransferIsDispatched := by
  intro s h hh hmax
  rw [exec_spiTransfer_of_holds hh]
  refine ⟨fun hshort => if_pos hshort, fun hlen => ?_⟩
  have htx := length_payloadBytes s h 2 ((s.length h).toNat - 2)
  have hfit : (s.spiTransfer (s.payloadHalf h 0) (s.payloadBytes h 2 ((s.length h).toNat - 2))).1.length ≤
      s.cfg.maxPayload := by
    rw [length_spiTransfer_fst, htx]
    omega
  rw [if_neg (Nat.not_lt.2 hlen), List.take_of_length_le hfit, payloadHalf_eq_append]
  refine ⟨_, _, rfl, htx, length_spiTransfer_fst _ _ _, fun i hi => ?sent, fun i v hi hv => ?received⟩
  case sent => exact getElem?_payloadBytes (htx ▸ hi)
  case received => exact getElem?_spiTransfer_fst _ hi hv

/-- Settles O41: the two nacks, then the call and what it registers. -/
theorem interruptRegisterIsDispatched : Obligations.InterruptRegisterIsDispatched := by
  intro s h hh
  rw [exec_interruptRegister_of_holds hh]
  refine ⟨fun hbad => ?nack, fun hlen hlow hhigh pin hpin => ?call⟩
  case nack =>
    by_cases hlen : s.length h = 3
    · rw [if_neg (not_not.2 hlen)]
      exact if_pos (hbad.resolve_left (not_not.2 hlen))
    · exact if_pos hlen
  case call =>
    have hmode : ¬(s.payload h 2 < 1 ∨ 3 < s.payload h 2) := not_or.2 ⟨Nat.not_lt.2 hlow, Nat.not_lt.2 hhigh⟩
    have hfield : s.payloadHalf h 0 = pin := (payloadHalf_eq_append s h 0).trans hpin.symm
    rw [if_neg (not_not.2 hlen), if_neg hmode, gpioRegister_snd, hfield]
    exact ⟨_, rfl, gpioRegister_fst_iff⟩

/-- Settles O43: each row's arm is the unknown-tag arm of its own byte. -/
theorem unknownTagDrawsNoAnswer : Obligations.UnknownTagDrawsNoAnswer := by
  rintro s h t rfl
  refine ⟨fun r hr hh => ?row, ?_, ?_, ?_, ?_, ?_, ?_⟩
  case row =>
    simp only [unknownRows, List.mem_cons, List.not_mem_nil, or_false] at hr
    rcases hr with rfl | rfl | rfl | rfl | rfl | rfl
    · exact dispatchOrSend_of_holds hh
    · exact dispatchOrSend_of_holds hh
    · exact dispatchOrSend_of_holds hh
    · exact dispatchUnknown_of_holds hh
    · exact dispatchOrSend_of_holds hh
    · exact dispatchUnknown_of_holds hh
  all_goals exact fun x => dispatchUnknown_of_holds

end Sys2Proof.Machine
end

section
/-! PROOFS. The pool's own operations (R81, R82), met by themselves: what an allocation answers, and the one order in which
a release is refused or completes. -/

namespace Sys2Proof.Machine

section
variable {s : State} {h : Nat}

/-! POOL.ALLOC (R81). -/

theorem exec_poolAlloc_of_exhausted (hex : s.exhausted = true) :
    exec (.poolAlloc .irx) s = .next { s with out := .noHandle } := by
  rcases allocate_cases s with ⟨-, halloc⟩ | ⟨_, hroom, -⟩
  · simp only [exec, execPoolAlloc, onlyIn_self, halloc, answer]
  · cases hroom.symm.trans hex

theorem exec_poolAlloc_of_not_exhausted (hroom : s.exhausted = false) : ∃ h, h < s.cfg.nPackets ∧ s.isFree h = true ∧
    exec (.poolAlloc .irx) s = .next { s.takeBuffer h with out := .handle h } := by
  rcases allocate_cases s with ⟨hex, -⟩ | ⟨h, -, hlt, hfree, halloc⟩
  · cases hroom.symm.trans hex
  · exact ⟨h, hlt, hfree, by simp only [exec, execPoolAlloc, onlyIn_self, halloc, answer]⟩

/-- An allocation that answers a handle found that buffer free and has taken it. -/
theorem exec_poolAlloc_handle {t : State} (hexec : exec (.poolAlloc .irx) s = .next t) (hout : t.out = .handle h) :
    h < s.cfg.nPackets ∧ s.isFree h = true ∧ t = { s.takeBuffer h with out := .handle h } := by
  cases hex : s.exhausted with
  | true =>
    cases (exec_poolAlloc_of_exhausted hex).symm.trans hexec
    cases hout
  | false =>
    obtain ⟨k, hlt, hfree, hk⟩ := exec_poolAlloc_of_not_exhausted hex
    cases hk.symm.trans hexec
    cases hout
    exact ⟨hlt, hfree, rfl⟩

/-! POOL.RELEASE (R82): the faults of the handle in the order of R188, and the context last (D17). -/

theorem release_of_le (hle : s.cfg.nPackets ≤ h) (o : Owner) : release o h s = .fault .badHandle := if_pos hle

theorem release_of_free (hlt : h < s.cfg.nPackets) (hfree : s.isFree h = true) (o : Owner) :
    release o h s = .fault .doubleRelease := by
  rw [release, if_neg (Nat.not_le.2 hlt), if_pos hfree]

theorem release_of_owner_ne {o : Owner} (hlt : h < s.cfg.nPackets) (hfree : s.isFree h = false) (ho : s.owner h ≠ o) :
    release o h s = .fault .foreignRelease := by
  rw [release, if_neg (Nat.not_le.2 hlt), if_neg (Bool.eq_false_iff.1 hfree), if_pos ho]

/-- What context `c` may do with the buffer given back: only the parser and the dispatcher release at all, and the
dispatcher's processing step is then over (R162). -/
def afterRelease (c : Ctx) (h : Nat) (t : State) : Result :=
  if c = .irx ∨ c = .wdisp then answer .none { t with wdisp := if c = .wdisp then t.wdisp.forget h else t.wdisp }
  else .fault .wrongContext

/-- All contexts release in one way: for the owner that R82 names, then as the context allows. -/
theorem exec_poolRelease (c : Ctx) (h : Nat) (s : State) :
    exec (.poolRelease c h) s = andThen (release (releaser c) h s) (afterRelease c h) := by
  cases c with
  | irx | wdisp | igpio | wevt | platform | reentry => rfl

theorem exec_poolRelease_of_fault {c : Ctx} {f : Fault} (hf : release (releaser c) h s = .fault f) :
    exec (.poolRelease c h) s = .fault f := by
  rw [exec_poolRelease, hf, andThen_fault]

theorem exec_poolRelease_of_owner {c : Ctx} (hlt : h < s.cfg.nPackets) (hfree : s.isFree h = false)
    (ho : s.owner h = releaser c) : exec (.poolRelease c h) s = afterRelease c h (s.giveBack h) := by
  rw [exec_poolRelease, release_eq_next.2 ⟨hlt, hfree, ho, rfl⟩, andThen_next]

end

/-- Settles O21, by the two outcomes of an allocation. -/
theorem allocTakesAFreeBuffer : Obligations.AllocTakesAFreeBuffer :=
  fun _ => ⟨exec_poolAlloc_of_exhausted, exec_poolAlloc_of_not_exhausted⟩

/-- Settles O23: the second buffer is free after the first allocation, and the first one is not. -/
theorem twoAllocationsDiffer : Obligations.TwoAllocationsDiffer := by
  rintro s t u h k hs hst hh htu hk rfl
  obtain ⟨hlt, -, rfl⟩ := exec_poolAlloc_handle hst hh
  obtain ⟨-, hfree, -⟩ := exec_poolAlloc_handle htu hk
  have htaken : (s.takeBuffer h).isFree h = false := by
    rw [isFree_takeBuffer (hs.free_length.symm ▸ hlt), if_pos rfl]
  cases htaken.symm.trans hfree

/-- Settles O24: the three faults of the handle in their order, then the context. -/
theorem releaseFreesOrFaults : Obligations.ReleaseFreesOrFaults := by
  intro s h c
  refine ⟨fun hle => ?bad, fun hlt hfree => ?double, fun hlt hfree ho => ?foreign, fun hlt hfree ho hirx hdisp => ?context,
    fun hlt hfree ho hc => ?freed⟩
  case bad => exact exec_poolRelease_of_fault (release_of_le hle _)
  case double => exact exec_poolRelease_of_fault (release_of_free hlt hfree _)
  case foreign => exact exec_poolRelease_of_fault (release_of_owner_ne hlt hfree ho)
  case context =>
    rw [exec_poolRelease_of_owner hlt hfree ho]
    exact if_neg (not_or.2 ⟨hirx, hdisp⟩)
  case freed =>
    rw [exec_poolRelease_of_owner hlt hfree ho]
    exact if_pos hc

end Sys2Proof.Machine
end

section
/-! PROOFS. The queues as a FIFO of bounded length (R92, R93, R97, R100): what TRY_PUT and GET answer, by what the queue holds,
first on a queue of any elements, then at the ports of `PQ` and `EQ`. -/

namespace Sys2Proof.Machine

section
variable {α : Type} {cap : Nat} {q : Queue α} {x : α} {xs : List α}

/-! A queue by itself. -/

theorem Queue.tryPut_of_full (hfull : q.count cap = cap) (x : α) : q.tryPut cap x = (false, q) :=
  ((tryPut_cases cap x q).resolve_right fun ⟨hroom, _⟩ => hroom hfull).2

theorem Queue.tryPut_of_room (hroom : q.count cap ≠ cap) (x : α) : q.tryPut cap x = (true, q.push cap x) :=
  ((tryPut_cases cap x q).resolve_left fun ⟨hfull, _⟩ => hroom hfull).2

theorem Queue.get_of_empty (hempty : q.count cap = 0) : q.get cap = none :=
  ((get_cases cap q).resolve_right fun ⟨hne, _⟩ => hne hempty).2

theorem Queue.get_of_slot (hne : q.count cap ≠ 0) (hx : q.slot[q.rd % cap]? = some x) :
    q.get cap = some (x, q.pop cap) := by
  rw [((get_cases cap q).resolve_left fun ⟨hempty, _⟩ => hne hempty).2, hx]
  rfl

theorem Queue.items_eq_nil_iff (h : q.Wf cap) : q.items cap = [] ↔ q.count cap = 0 := by
  rw [← List.length_eq_zero_iff, Queue.length_items h]

/-- Of a well-formed queue with items, the slot at the consumer pointer exists and holds the head. -/
theorem Queue.head_of_items (h : q.Wf cap) (hitems : q.items cap = x :: xs) :
    q.count cap ≠ 0 ∧ q.slot[q.rd % cap]? = some x ∧ (q.pop cap).items cap = xs := by
  have hne : q.count cap ≠ 0 := fun hempty => by
    cases hitems.symm.trans ((Queue.items_eq_nil_iff h).2 hempty)
  have hslot := List.getElem?_eq_getElem (h.mod_lt_slots q.rd)
  obtain ⟨rfl, rfl⟩ := List.cons.inj (hitems.symm.trans (Queue.items_eq_cons h hne hslot))
  exact ⟨hne, hslot, rfl⟩

end

/-- Settles O28: the length of the items is the count of R91, by which TRY_PUT and GET decide. -/
theorem queueRefinesFifo : Obligations.QueueRefinesFifo := by
  intro α cap q _ h
  have ⟨_, _, _, hle⟩ := h
  rw [Queue.length_items h]
  refine ⟨hle, fun x hfull => Queue.tryPut_of_full hfull x, fun x hroom => ?put, fun hnil => ?empty, fun x xs hitems => ?get⟩
  case put => exact ⟨_, Queue.tryPut_of_room hroom x, Queue.items_push h hroom x, h.push hroom x⟩
  case empty => exact Queue.get_of_empty ((Queue.items_eq_nil_iff h).1 hnil)
  case get =>
    obtain ⟨hne, hx, hrest⟩ := Queue.head_of_items h hitems
    exact ⟨_, Queue.get_of_slot hne hx, hrest, h.pop hne⟩

/-! The operations at the ports: the queue's own operation, answered. -/

section
variable {s : State}

theorem exec_pqTryPut_irx (x : Nat) (s : State) :
    exec (.pqTryPut .irx x) s = answer (.bool (s.pqPut x).1) (s.pqPut x).2 := rfl

theorem exec_eqTryPut_igpio (ev : Word) (s : State) :
    exec (.eqTryPut .igpio ev) s = answer (.bool (s.eqPut ev).1) (s.eqPut ev).2 := rfl

theorem exec_pqTryPut_of_full (hfull : s.pq.count s.cfg.pqCap = s.cfg.pqCap) (x : Nat) :
    exec (.pqTryPut .irx x) s = .next { s with out := .bool false } := by
  rw [exec_pqTryPut_irx, State.pqPut, Queue.tryPut_of_full hfull, answer]

theorem exec_pqTryPut_of_room (hroom : s.pq.count s.cfg.pqCap ≠ s.cfg.pqCap) (x : Nat) :
    exec (.pqTryPut .irx x) s = .next { s.enqueue x with out := .bool true } := by
  rw [exec_pqTryPut_irx, State.pqPut, Queue.tryPut_of_room hroom, answer, State.enqueue]

theorem exec_eqTryPut_of_full (hfull : s.evq.count s.cfg.eqCap = s.cfg.eqCap) (ev : Word) :
    exec (.eqTryPut .igpio ev) s = .next { s with out := .bool false } := by
  rw [exec_eqTryPut_igpio, State.eqPut, Queue.tryPut_of_full hfull, answer]

theorem exec_eqTryPut_of_room (hroom : s.evq.count s.cfg.eqCap ≠ s.cfg.eqCap) (ev : Word) :
    exec (.eqTryPut .igpio ev) s = .next { s with evq := s.evq.push s.cfg.eqCap ev, out := .bool true } := by
  rw [exec_eqTryPut_igpio, State.eqPut, Queue.tryPut_of_room hroom, answer]

theorem exec_pqGet_of_none (hget : s.pq.get s.cfg.pqCap = none) :
    exec (.pqGet .wdisp) s = .next { s with out := .held } := by
  simp only [exec, execPqGet, onlyIn_self, State.pqTake, hget, Option.map_none, answer]

theorem exec_eqGet_of_none (hget : s.evq.get s.cfg.eqCap = none) :
    exec (.eqGet .wevt) s = .next { s with out := .held } := by
  simp only [exec, execEqGet, onlyIn_self, State.eqTake, hget, Option.map_none, answer]

theorem exec_pqGet_of_some {x : Nat} {q : Queue Nat} (hget : s.pq.get s.cfg.pqCap = some (x, q)) :
    exec (.pqGet .wdisp) s =
      .next { s with pq := q, own := s.own.set x .worker, wdisp := .holding x, out := .handle x } := by
  simp only [exec, execPqGet, onlyIn_self, State.pqTake, hget, Option.map_some, answer]

theorem exec_eqGet_of_some {ev : Word} {q : Queue Word} (hget : s.evq.get s.cfg.eqCap = some (ev, q)) :
    exec (.eqGet .wevt) s = .next { s with evq := q, wevt := .holding ev, out := .event ev } := by
  simp only [exec, execEqGet, onlyIn_self, State.eqTake, hget, Option.map_some, answer]

end

/-- Settles O26: a full queue is left as it is, and one with room is pushed. -/
theorem tryPutStoresUnlessFull : Obligations.TryPutStoresUnlessFull := fun _ x ev =>
  ⟨fun hfull => exec_pqTryPut_of_full hfull x, fun hroom => exec_pqTryPut_of_room hroom x,
    fun hfull => exec_eqTryPut_of_full hfull ev, fun hroom => exec_eqTryPut_of_room hroom ev⟩

/-- Settles O30: GET on an empty queue has no result, so the caller is held. -/
theorem getOnEmptyQueueHolds : Obligations.GetOnEmptyQueueHolds := fun _ =>
  ⟨fun hempty => exec_pqGet_of_none (Queue.get_of_empty hempty),
    fun hempty => exec_eqGet_of_none (Queue.get_of_empty hempty)⟩

/-- Settles O27: on a well-formed queue the consumer pointer's slot holds the head of the items. -/
theorem getReturnsTheOldest : Obligations.GetReturnsTheOldest := by
  refine ⟨fun s x xs hwf hitems => ?pq, fun s ev evs hwf hitems => ?evq⟩ <;>
    obtain ⟨hne, hx, hrest⟩ := Queue.head_of_items hwf hitems
  case pq => exact ⟨exec_pqGet_of_some (Queue.get_of_slot hne hx), hrest⟩
  case evq => exact ⟨exec_eqGet_of_some (Queue.get_of_slot hne hx), hrest⟩

end Sys2Proof.Machine
end

section
/-! PROOFS. Which transaction a step takes (R97, R144, R151): the picking passes over a held context's own transactions, and
what it passes over stays in the trace. -/

namespace Sys2Proof.Machine

section
variable {s : State} {blocked : List Ctx} {t : Txn} {tr : List Txn}

theorem held_of_fetch {i : Instr} (hf : fetch s t = .ok i) : held s t = waits i s := by
  rw [held, hf]

theorem pick_cons_of_pass (h : t.ctx ∈ blocked ∨ held s t = true) :
    pick s blocked (t :: tr) = (pick s (t.ctx :: blocked) tr).map fun p => (p.1, t :: p.2) :=
  if_pos (by simpa using h)

theorem pick_cons_of_enabled (hctx : t.ctx ∉ blocked) (hheld : held s t = false) :
    pick s blocked (t :: tr) = some (t, tr) :=
  if_neg (by simpa [hheld] using hctx)

/-- Of the contexts found held only the set matters, not their order or number. -/
theorem pick_congr_blocked {blocked' : List Ctx} (h : ∀ c, c ∈ blocked ↔ c ∈ blocked') (tr : List Txn) :
    pick s blocked tr = pick s blocked' tr := by
  induction tr generalizing blocked blocked' with
  | nil => rfl
  | cons t tr ih =>
    by_cases hpass : t.ctx ∈ blocked ∨ held s t = true
    · have hnext : ∀ c, c ∈ t.ctx :: blocked ↔ c ∈ t.ctx :: blocked' := by simp [h]
      rw [pick_cons_of_pass hpass, pick_cons_of_pass (by rwa [← h]), ih hnext]
    · obtain ⟨hctx, hheld⟩ := not_or.1 hpass
      have hheld : held s t = false := Bool.eq_false_iff.2 hheld
      rw [pick_cons_of_enabled hctx hheld, pick_cons_of_enabled (by rwa [← h]) hheld]

/-- The transactions of a held context are passed over, and stay pending in their order. -/
theorem pick_append_of_blocked {c : Ctx} {mine : List Txn} (hc : c ∈ blocked) (hmine : ∀ u ∈ mine, u.ctx = c) :
    pick s blocked (mine ++ tr) = (pick s blocked tr).map fun p => (p.1, mine ++ p.2) := by
  induction mine with
  | nil => simp
  | cons u us ih =>
    obtain ⟨rfl, hus⟩ := List.forall_mem_cons.1 hmine
    have hset : ∀ d, d ∈ u.ctx :: blocked ↔ d ∈ blocked := by simp [hc]
    rw [List.cons_append, pick_cons_of_pass (.inl hc), pick_congr_blocked hset, ih hus, Option.map_map]
    rfl

/-- A held transaction at the head and those of its context behind it are passed over together. -/
theorem pick_of_head_held {mine : List Txn} (hheld : held s t = true) (hmine : ∀ u ∈ mine, u.ctx = t.ctx) :
    pick s [] (t :: (mine ++ tr)) = (pick s [t.ctx] tr).map fun p => (p.1, t :: (mine ++ p.2)) := by
  rw [pick_cons_of_pass (.inr hheld), pick_append_of_blocked List.mem_cons_self hmine, Option.map_map]
  rfl

theorem step_of_pick_none (hp : pick s [] s.trace = none) : step s = .next s := by
  rw [step, hp]

theorem step_of_pick_some {rest : List Txn} {i : Instr} (hp : pick s [] s.trace = some (t, rest))
    (hf : fetch s t = .ok i) : step s = exec i { s with trace := rest } := by
  simp only [step, hp, hf]

end

/-- Settles O51: with the held context passed over, the first transaction of another context is at the head. -/
theorem heldWorkerMakesNoStep : Obligations.HeldWorkerMakesNoStep := by
  intro s t g mine hg hwaits hmine
  have hheld : held s t = true := (held_of_fetch hg).trans hwaits
  refine ⟨fun htrace => step_of_pick_none ?alone, fun u later i htrace hctx hi henabled => step_of_pick_some ?passed hi⟩
  case alone =>
    rw [htrace, ← mine.append_nil, pick_of_head_held hheld hmine]
    rfl
  case passed =>
    have hu : pick s [t.ctx] (u :: later) = some (u, later) :=
      pick_cons_of_enabled (by simpa using hctx) ((held_of_fetch hi).trans henabled)
    rw [htrace, pick_of_head_held hheld hmine, hu]
    rfl

end Sys2Proof.Machine
end

section
/-! PROOFS. What RX_BYTE does in each state of the parser (R106 to R112), and its two endings EMIT and ABORT (R109, R113):
one equation for each branch. -/

namespace Sys2Proof.Machine

section
variable {s : State} {b : Byte}

/-! The two endings. -/

/-- R109: with room in `PQ` the packet is put. -/
theorem silent_emitPacket_of_room (hroom : s.pq.count s.cfg.pqCap ≠ s.cfg.pqCap) :
    silent (emitPacket s) = .next (afterEmit s s.mem) := by
  rcases emitPacket_cases s with ⟨-, he⟩ | ⟨hfull, -⟩
  · rw [he]
    rfl
  · exact absurd hfull hroom

/-- R109: on a full queue the frame is dropped and its buffer released. -/
theorem silent_emitPacket_of_full (hfull : s.pq.count s.cfg.pqCap = s.cfg.pqCap) (howns : parserOwns s) :
    silent (emitPacket s) = .next (afterGiveUp s s.mem [.queueFullFrame]) := by
  obtain ⟨hlt, hfree, ho⟩ := howns
  have hrelease : release .parser s.cur (s.drop .queueFullFrame) = .next ((s.drop .queueFullFrame).giveBack s.cur) :=
    release_eq_next.2 ⟨hlt, hfree, ho, rfl⟩
  rcases emitPacket_cases s with ⟨hroom, -⟩ | ⟨-, he⟩
  · exact absurd hfull hroom
  · rw [he, hrelease]
    rfl

/-- R113. -/
theorem abortFrame_of_owns (howns : parserOwns s) : abortFrame s = .next (s.giveBack s.cur).parserReset := by
  obtain ⟨hlt, hfree, ho⟩ := howns
  exact abortFrame_eq_next.2 ⟨hlt, hfree, ho, rfl⟩

/-! RX_BYTE, state by state. -/

theorem exec_rxByte_of_receive {r : Result} (h : receive b s = r) : exec (.rxByte .irx b) s = silent r :=
  congrArg silent h

/-- The row of a byte's position, or RX_BYTE itself: both receive the byte (R68). -/
theorem exec_of_mem_rows {i j : Instr} (hj : encode j = byteTxn .irx b) (hi : i ∈ [Instr.rxByte .irx b, j]) (s : State) :
    exec i s = silent (receive b s) := by
  rcases List.mem_pair.1 hi with rfl | rfl
  · rfl
  · exact exec_eq_rxByte hj s

/-- R107: with no buffer to be had a valid tag is lost. -/
theorem exec_rxByte_of_exhausted (hps : s.ps = .readCommand) (htag : validTag s.cfg b = true) (hheld : s.held = false)
    (hex : s.exhausted = true) :
    exec (.rxByte .irx b) s = .next { s with log := s.log ++ [.noBuffer], out := .none } := by
  rcases allocate_cases s with ⟨-, halloc⟩ | ⟨_, hroom, -⟩
  · have hrx : receive b s = .next (s.drop .noBuffer) := by simp [receive, hps, rxReadCommand, htag, hheld, halloc]
    exact exec_rxByte_of_receive hrx
  · cases hroom.symm.trans hex

/-- R121: a buffer held already is reused. -/
theorem exec_rxByte_of_held (hps : s.ps = .readCommand) (htag : validTag s.cfg b = true) (hheld : s.held = true)
    (hcur : s.cur < s.cfg.nPackets) :
    exec (.rxByte .irx b) s = .next { s.setCommand s.cur b with ps := .readLenLow, out := .none } := by
  have hrx : receive b s = .next { s.setCommand s.cur b with ps := .readLenLow } := by
    simp [receive, hps, rxReadCommand, htag, hheld, storeCommand, withCur, hcur]
  exact exec_rxByte_of_receive hrx

/-- R110. -/
theorem exec_rxByte_of_lengthLow (hps : s.ps = .readLenLow) (hcur : s.cur < s.cfg.nPackets) : exec (.rxByte .irx b) s =
    .next { s.setLength s.cur (b.setWidth 16) with ps := .readLenHigh, out := .none } := by
  have hrx : receive b s = .next { s.setLength s.cur (b.setWidth 16) with ps := .readLenHigh } := by
    simp [receive, hps, rxReadLenLow, withCur, hcur]
  exact exec_rxByte_of_receive hrx

/-- The assembled length is the number of R61. -/
theorem toNat_lengthFrom (b : Byte) (s : State) : (s.lengthFrom b).toNat = lengthWith b s := by
  rw [State.lengthFrom, toNat_append_eq_add, BitVec.extractLsb'_toNat, lengthWith]
  simp only [Nat.shiftRight_zero, Nat.reducePow]
  omega

theorem lengthFrom_eq_zero_iff (b : Byte) (s : State) : s.lengthFrom b = 0 ↔ lengthWith b s = 0 := by
  rw [← toNat_lengthFrom, ← BitVec.toNat_inj]
  rfl

/-- R111: the oversize test comes first. -/
theorem receive_lengthHigh (hps : s.ps = .readLenHigh) (hcur : s.cur < s.cfg.nPackets) : receive b s =
    if s.cfg.maxPayload < lengthWith b s then
      abortFrame ((s.setLength s.cur (s.lengthFrom b)).drop .oversizeLength)
    else if lengthWith b s = 0 then emitPacket (s.setLength s.cur (s.lengthFrom b))
    else .next { s.setLength s.cur (s.lengthFrom b) with cnt := 0, ps := .readData } := by
  simp only [← lengthFrom_eq_zero_iff b s]
  rw [← toNat_lengthFrom b s]
  simp only [receive, hps, rxReadLenHigh, withCur, if_pos hcur]
  rfl

/-- R112: the counter is compared with the length as it stood before the store, which leaves the header alone. -/
theorem receive_payload (hps : s.ps = .readData) (hcur : s.cur < s.cfg.nPackets) (hcnt : s.cnt.toNat < s.cfg.maxPayload) :
    receive b s = if s.cnt + 1 = s.length s.cur then emitPacket (s.storeNext b) else .next (s.storeNext b) := by
  obtain ⟨-, hlen⟩ := header_storeNext hcnt b
  rw [← hlen]
  simp only [receive, hps, rxReadData, withCur, if_pos hcur, if_neg (not_le.2 hcnt)]
  rfl

/-! What each row writes, as the statements put it. -/

theorem StoresLengthLow.of_exec {i : Instr} (h : exec i s =
    .next { s.setLength s.cur (b.setWidth 16) with ps := .readLenHigh, out := .none }) : StoresLengthLow i b s := by
  refine ⟨_, h, rfl, State.length_setLength s s.cur _, fun a ha => ?_⟩
  obtain ⟨h1, h2⟩ : a ≠ bufAddr s.cfg s.cur 1 ∧ a ≠ bufAddr s.cfg s.cur 2 := by simpa using ha
  exact (State.byteAt_setLength s s.cur _ a).trans ((if_neg h2).trans (if_neg h1))

/-- `e` puts the buffer space it is given into a state with the parameters and the reset number of `s`, so that the buffers
read there as in any such state. -/
def Fills (s : State) (e : List Host.Cell → State) : Prop :=
  ∀ m, (e m).mem = m ∧ (e m).cfg = s.cfg ∧ (e m).epoch = s.epoch

theorem Fills.byteAt {e : List Host.Cell → State} (he : Fills s e) {u : State} (hu : u.epoch = s.epoch) (a : Nat) :
    (e u.mem).byteAt a = u.byteAt a := by
  obtain ⟨hmem, -, hepoch⟩ := he u.mem
  exact State.byteAt_congr hmem (hepoch.trans hu.symm) a

theorem StoresLengthHigh.of_exec {i : Instr} {e : List Host.Cell → State} (he : Fills s e)
    (h : exec i s = .next (e (s.setLength s.cur (s.lengthFrom b)).mem)) : StoresLengthHigh i b s e := by
  obtain ⟨hmem, hcfg, -⟩ := he (s.setLength s.cur (s.lengthFrom b)).mem
  have hbyte := he.byteAt (u := s.setLength s.cur (s.lengthFrom b)) rfl
  refine ⟨_, h, by rw [hmem], ?_, fun a ha => ?_⟩
  · have hlen : (e (s.setLength s.cur (s.lengthFrom b)).mem).length s.cur = s.lengthFrom b := by
      rw [State.length, hcfg, hbyte, hbyte]
      exact State.length_setLength s s.cur _
    rw [hlen, toNat_lengthFrom]
  · obtain ⟨h1, h2⟩ : a ≠ bufAddr s.cfg s.cur 1 ∧ a ≠ bufAddr s.cfg s.cur 2 := by simpa using ha
    rw [hbyte, State.byteAt_setLength, if_neg h2, if_neg h1]

theorem StoresPayload.of_exec {i : Instr} {e : List Host.Cell → State} (he : Fills s e)
    (h : exec i s = .next (e (s.storeNext b).mem)) : StoresPayload i b s e := by
  obtain ⟨hmem, hcfg, -⟩ := he (s.storeNext b).mem
  have hbyte : ∀ a, (e (s.storeNext b).mem).byteAt a =
      if a = payloadAddr s.cfg s.cur s.cnt.toNat then b else s.byteAt a := fun a =>
    (he.byteAt (u := s.storeNext b) rfl a).trans (State.byteAt_storePayload s s.cur s.cnt.toNat b a)
  refine ⟨_, h, by rw [hmem], ?_, fun a ha => ?_⟩
  · rw [State.payload, hcfg, hbyte, if_pos rfl]
  · rw [hbyte, if_neg (by simpa using ha)]

end

/-- Settles O3. -/
theorem invalidTagIsDiscarded : Obligations.InvalidTagIsDiscarded := fun _ _ => exec_rxByte_of_invalid

/-- Settles O5. -/
theorem tagWithoutBufferIsDropped : Obligations.TagWithoutBufferIsDropped := fun _ _ => exec_rxByte_of_exhausted

/-- Settles O6: by whether the parser holds a buffer already. -/
theorem validTagOpensAFrame : Obligations.ValidTagOpensAFrame := by
  refine fun s b hps htag => ⟨fun hheld hroom => opensFrame_rxByte hps hheld hroom htag, fun hheld hcur => ?_⟩
  refine ⟨_, exec_rxByte_of_held hps htag hheld hcur, rfl, State.command_setCommand s s.cur b, fun a ha => ?_⟩
  exact State.byteAt_setByte_other s b (by simpa using ha)

/-- Settles O8. -/
theorem lowLengthByteIsStored : Obligations.LowLengthByteIsStored := by
  intro s b hps hcur
  have hexec := exec_rxByte_of_lengthLow (b := b) hps hcur
  exact ⟨.of_exec hexec, .of_exec ((exec_eq_rxByte rfl s).trans hexec)⟩

/-- Settles O9, by the branches of R111. The parser owns its buffer after the store as before. -/
theorem highLengthByteDecides : Obligations.HighLengthByteDecides := by
  intro s b hps howns i hi
  have ⟨hcur, _⟩ := howns
  have hrx := receive_lengthHigh (b := b) hps hcur
  have hrow := exec_of_mem_rows rfl hi s
  refine ⟨fun hover => ?oversize, fun hzero hroom => ?put, fun hzero hfull => ?full, fun hpos hmax => ?payload⟩
  all_goals refine .of_exec (fun _ => ⟨rfl, rfl, rfl⟩) (hrow.trans ?_)
  case oversize =>
    rw [hrx, if_pos hover, abortFrame_of_owns (s := (s.setLength s.cur (s.lengthFrom b)).drop _) howns]
    rfl
  case put =>
    rw [hrx, if_neg (by omega), if_pos hzero]
    exact silent_emitPacket_of_room (s := s.setLength s.cur (s.lengthFrom b)) hroom
  case full =>
    rw [hrx, if_neg (by omega), if_pos hzero]
    exact silent_emitPacket_of_full (s := s.setLength s.cur (s.lengthFrom b)) hfull howns
  case payload =>
    rw [hrx, if_neg (not_lt.2 hmax), if_neg hpos]
    rfl

/-- Settles O10, by the branches of R112. -/
theorem payloadByteIsStored : Obligations.PayloadByteIsStored := by
  intro s b hps howns hcnt i hi
  have ⟨hcur, _⟩ := howns
  have hrx := receive_payload (b := b) hps hcur hcnt
  have hrow := exec_of_mem_rows rfl hi s
  refine ⟨fun hmore => ?more, fun hlast hroom => ?put, fun hlast hfull => ?full⟩
  all_goals refine .of_exec (fun _ => ⟨rfl, rfl, rfl⟩) (hrow.trans ?_)
  case more =>
    rw [hrx, if_neg hmore]
    rfl
  case put =>
    rw [hrx, if_pos hlast]
    exact silent_emitPacket_of_room (s := s.storeNext b) hroom
  case full =>
    rw [hrx, if_pos hlast]
    exact silent_emitPacket_of_full (s := s.storeNext b) hfull howns

/-- Settles O11. -/
theorem emitPutsOrReleases : Obligations.EmitPutsOrReleases :=
  fun _ => ⟨silent_emitPacket_of_room, silent_emitPacket_of_full⟩

/-- Settles O12: ABORT by itself drops nothing. -/
theorem abortReleases : Obligations.AbortReleases := by
  intro s howns
  have habort : exec (.abort .irx) s = silent (abortFrame s) := rfl
  rw [habort, abortFrame_of_owns howns, afterGiveUp, List.append_nil]
  rfl

end Sys2Proof.Machine
end

section
/-! PROOFS. The parser in every state with the invariants (R105, R114, R142): RX_BYTE completes, and `ps` and `held` are then
what the transition table says. -/

namespace Sys2Proof.Machine

section
variable {s : State} {b : Byte} {r : ParserState × Bool}

/-- RX_BYTE of `b` completes, has no result, and leaves `ps` and `held` as `r` says. -/
def RxLeaves (b : Byte) (s : State) (r : ParserState × Bool) : Prop :=
  ∃ t, exec (.rxByte .irx b) s = .next t ∧ t.out = .none ∧ (t.ps, t.held) = r

/-- A branch that is known but for the new buffer space says enough. -/
theorem RxLeaves.of_eq {t : State} {e : List Host.Cell → State} (hexec : exec (.rxByte .irx b) s = .next t)
    (ht : t = e t.mem) (he : ∀ m, (e m).out = .none ∧ ((e m).ps, (e m).held) = r) : RxLeaves b s r := by
  refine ⟨t, hexec, ?_⟩
  rw [ht]
  exact he t.mem

theorem StoresLengthHigh.rxLeaves {e : List Host.Cell → State} (h : StoresLengthHigh (.rxByte .irx b) b s e)
    (he : ∀ m, (e m).out = .none ∧ ((e m).ps, (e m).held) = r) : RxLeaves b s r := by
  obtain ⟨t, hexec, ht, -⟩ := h
  exact .of_eq hexec ht he

theorem StoresPayload.rxLeaves {e : List Host.Cell → State} (h : StoresPayload (.rxByte .irx b) b s e)
    (he : ∀ m, (e m).out = .none ∧ ((e m).ps, (e m).held) = r) : RxLeaves b s r := by
  obtain ⟨t, hexec, ht, -⟩ := h
  exact .of_eq hexec ht he

/-- R30: past the tag the parser owns the buffer `cur`. -/
theorem BlockInv.parserOwns (h : BlockInv s) (hps : s.ps ≠ .readCommand) : parserOwns s := by
  obtain ⟨-, hone, -, hpart, -⟩ := h
  obtain ⟨hlt, ho⟩ := hone.owner_cur (hone.held_of_ps hps)
  exact ⟨hlt, hpart.isFree_eq_false hlt (by simp [ho]), ho⟩

theorem rxLeaves_readCommand (hps : s.ps = .readCommand) (hheld : s.held = false) : RxLeaves b s
    (if validTag s.cfg b = true ∧ s.exhausted = false then (.readLenLow, true) else (.readCommand, false)) := by
  cases htag : validTag s.cfg b with
  | false => exact ⟨_, exec_rxByte_of_invalid hps htag, rfl, by simp [hps, hheld]⟩
  | true =>
    cases hex : s.exhausted with
    | true => exact ⟨_, exec_rxByte_of_exhausted hps htag hheld hex, rfl, by simp [hps, hheld]⟩
    | false =>
      obtain ⟨h, -, -, hexec⟩ := exec_rxByte_of_valid hps hheld hex htag
      exact ⟨_, hexec, rfl, by simp⟩

theorem rxLeaves_readLenHigh (hps : s.ps = .readLenHigh) (hheld : s.held = true) (howns : parserOwns s) : RxLeaves b s
    (if s.cfg.maxPayload < lengthWith b s ∨ lengthWith b s = 0 then (.readCommand, false) else (.readData, true)) := by
  obtain ⟨hoversize, hput, hfull, hpayload⟩ := highLengthByteDecides s b hps howns (.rxByte .irx b) (by simp)
  split_ifs with hends
  · rcases hends with hover | hzero
    · exact (hoversize hover).rxLeaves fun _ => ⟨rfl, rfl⟩
    · by_cases hcount : s.pq.count s.cfg.pqCap = s.cfg.pqCap
      · exact (hfull hzero hcount).rxLeaves fun _ => ⟨rfl, rfl⟩
      · exact (hput hzero hcount).rxLeaves fun _ => ⟨rfl, rfl⟩
  · obtain ⟨hmax, hpos⟩ := not_or.1 hends
    exact (hpayload hpos (not_lt.1 hmax)).rxLeaves fun _ => ⟨rfl, by simp [hheld]⟩

/-- Below the length the counter reaches it or stays below it, and does not wrap (R16). -/
theorem succ_eq_iff_not_lt {c l : Half} (hlt : c.toNat < l.toNat) : c + 1 = l ↔ ¬ c.toNat + 1 < l.toNat := by
  bv_omega

theorem rxLeaves_readData (hps : s.ps = .readData) (hheld : s.held = true) (howns : parserOwns s)
    (hmax : (s.length s.cur).toNat ≤ s.cfg.maxPayload) (hlt : s.cnt.toNat < (s.length s.cur).toNat) : RxLeaves b s
    (if s.cnt.toNat + 1 < (s.length s.cur).toNat then (.readData, true) else (.readCommand, false)) := by
  obtain ⟨hmore, hput, hfull⟩ := payloadByteIsStored s b hps howns (hlt.trans_le hmax) (.rxByte .irx b) (by simp)
  have hlast := succ_eq_iff_not_lt hlt
  split_ifs with hbelow
  · exact (hmore fun heq => hlast.1 heq hbelow).rxLeaves fun _ => ⟨rfl, by simp [hps, hheld]⟩
  · by_cases hcount : s.pq.count s.cfg.pqCap = s.cfg.pqCap
    · exact (hfull (hlast.2 hbelow) hcount).rxLeaves fun _ => ⟨rfl, rfl⟩
    · exact (hput (hlast.2 hbelow) hcount).rxLeaves fun _ => ⟨rfl, rfl⟩

/-- R114: the transition table, row by row. -/
theorem rxLeaves_parserAfter (h : BlockInv s) (b : Byte) : RxLeaves b s (parserAfter b s) := by
  have ⟨_, hone, hcounter, _⟩ := h
  have hholds : s.ps ≠ .readCommand → s.held = true ∧ parserOwns s := fun hpast =>
    ⟨hone.held_of_ps hpast, h.parserOwns hpast⟩
  cases hps : s.ps with
  | readCommand =>
    simp only [parserAfter, hps]
    exact rxLeaves_readCommand hps (hone.held_false hps)
  | readLenLow =>
    obtain ⟨hheld, hcur, -⟩ := hholds (by simp [hps])
    exact ⟨_, exec_rxByte_of_lengthLow hps hcur, rfl, by simp [parserAfter, hps, hheld]⟩
  | readLenHigh =>
    obtain ⟨hheld, howns⟩ := hholds (by simp [hps])
    simp only [parserAfter, hps]
    exact rxLeaves_readLenHigh hps hheld howns
  | readData =>
    obtain ⟨hheld, howns⟩ := hholds (by simp [hps])
    obtain ⟨hmax, hlt⟩ := hcounter.lt_length hps
    simp only [parserAfter, hps]
    exact rxLeaves_readData hps hheld howns hmax hlt

end

/-- Settles O14. -/
theorem rxByteNeverFaults : Obligations.RxByteNeverFaults := by
  intro s b h
  obtain ⟨t, hexec, hout, -⟩ := rxLeaves_parserAfter h b
  exact ⟨t, hexec, hout⟩

/-- Settles O15: the byte leaves what the table says, and an operation has one outcome. -/
theorem parserFollowsTransitionTable : Obligations.ParserFollowsTransitionTable := by
  intro s t b h hexec
  obtain ⟨u, hu, -, htable⟩ := rxLeaves_parserAfter h b
  cases hu.symm.trans hexec
  exact htable

end Sys2Proof.Machine
end

section
/-! PROOFS. What RX_BYTE does not touch (R105), and what does not touch the parser (R114, R116). -/

namespace Sys2Proof.Machine

/-! RX_BYTE writes registers of the parser and the pool, and the producer's side of `PQ`. -/

/-- `s` with every register that RX_BYTE may write as `t` has it, and no result. -/
def State.withParserOf (s t : State) : State :=
  { s with ps := t.ps, held := t.held, cur := t.cur, cnt := t.cnt, mem := t.mem, free := t.free, own := t.own
           pq := { s.pq with slot := t.pq.slot, wr := t.pq.wr }, log := t.log, allocChoice := t.allocChoice
           stores := t.stores, out := .none }

section
variable {s t u : State}

theorem emitPacket_withParserOf (h : emitPacket s = .next u) : { u with out := .none } = s.withParserOf u := by
  rcases emitPacket_eq_next h with ⟨-, rfl⟩ | ⟨-, -, -, rfl⟩ <;> rfl

theorem abortFrame_withParserOf (h : abortFrame s = .next u) : { u with out := .none } = s.withParserOf u := by
  obtain ⟨-, -, -, rfl⟩ := abortFrame_eq_next.1 h
  rfl

theorem Received.withParserOf {b : Byte} (h : Received b s u) : { u with out := .none } = s.withParserOf u := by
  cases h with
  | oversize _ _ ht => exact (abortFrame_withParserOf ht).trans rfl
  | empty _ _ _ ht | lastByte _ _ _ ht => exact (emitPacket_withParserOf ht).trans rfl
  | discarded | reopened | opened | lengthLow | lengthHigh | dataByte => rfl

/-! The other operations leave the parser's registers. -/

/-- The registers of the parser (R12 to R16). -/
def State.parserRegs (s : State) : ParserState × Bool × Nat × Half := (s.ps, s.held, s.cur, s.cnt)

theorem parserRegs_of_blockPart (h : t.blockPart = s.blockPart) : t.parserRegs = s.parserRegs := by
  change t.blockPart.parserRegs = s.blockPart.parserRegs
  rw [h]

theorem answer_parserRegs {o : PortOut} (h : answer o u = .next t) (hu : u.parserRegs = s.parserRegs) :
    t.parserRegs = s.parserRegs := by
  cases h
  exact hu

/-- A byte of the tag table moves the parser only in the hands of `IRX`. -/
theorem tagByte_parserRegs {b : Byte} {arm : Byte → State → Result} {c : Ctx} (hc : decide (c = .irx) = false)
    (harm : arm b s = .next t → t.blockPart = s.blockPart) (h : tagByte b arm c s = .next t) :
    t.parserRegs = s.parserRegs := by
  cases c with
  | irx => cases hc
  | wdisp => exact parserRegs_of_blockPart (harm h)
  | igpio | wevt | platform | reentry => cases h

theorem interruptEvent_parserRegs {c : Ctx} (hc : decide (c = .irx) = false) (h : execInterruptEvent c s = .next t) :
    t.parserRegs = s.parserRegs := by
  simp only [execInterruptEvent] at h
  split at h
  · exact parserRegs_of_blockPart (forwardEvent_blockPart h)
  all_goals exact tagByte_parserRegs hc dispatchUnknown_blockPart h

theorem edge_parserRegs {c : Ctx} {pin : Half} {rising : Bool} (h : execEdge c pin rising s = .next t) :
    t.parserRegs = s.parserRegs := by
  obtain ⟨rfl, hr⟩ := onlyIn_eq_next h
  rcases eqPut_cases s (encodeEvent pin rising) with ⟨-, hp⟩ | ⟨-, hp⟩ <;> simp only [hp] at hr <;>
    exact answer_parserRegs hr rfl

/-- POOL.ALLOC by itself gives the parser no buffer: it is RX_BYTE that writes `cur` and `held` (R108). -/
theorem poolAlloc_parserRegs {c : Ctx} (h : execPoolAlloc c s = .next t) : t.parserRegs = s.parserRegs := by
  obtain ⟨rfl, hr⟩ := onlyIn_eq_next h
  rcases allocate_cases s with ⟨-, ha⟩ | ⟨_, -, -, -, ha⟩ <;> simp only [ha] at hr <;> exact answer_parserRegs hr rfl

theorem poolRelease_parserRegs {c : Ctx} {x : Nat} (h : exec (.poolRelease c x) s = .next t) :
    t.parserRegs = s.parserRegs := by
  rw [exec_poolRelease] at h
  obtain ⟨u, hu, ht⟩ := andThen_eq_next h
  obtain ⟨-, -, -, rfl⟩ := release_eq_next.1 hu
  simp only [afterRelease] at ht
  split at ht
  · exact answer_parserRegs ht rfl
  · cases ht

theorem pqTryPut_parserRegs {c : Ctx} {x : Nat} (h : execPqTryPut c x s = .next t) : t.parserRegs = s.parserRegs := by
  obtain ⟨rfl, hr⟩ := onlyIn_eq_next h
  rcases pqPut_cases s x with ⟨-, hp⟩ | ⟨-, hp⟩ <;> simp only [hp] at hr <;> exact answer_parserRegs hr rfl

theorem eqTryPut_parserRegs {c : Ctx} {ev : Word} (h : execEqTryPut c ev s = .next t) : t.parserRegs = s.parserRegs := by
  obtain ⟨rfl, hr⟩ := onlyIn_eq_next h
  rcases eqPut_cases s ev with ⟨-, hp⟩ | ⟨-, hp⟩ <;> simp only [hp] at hr <;> exact answer_parserRegs hr rfl

theorem pqGet_parserRegs {c : Ctx} (h : execPqGet c s = .next t) : t.parserRegs = s.parserRegs := by
  obtain ⟨rfl, hr⟩ := onlyIn_eq_next h
  split at hr
  · next x u hu =>
    obtain ⟨-, -, rfl⟩ := pqTake_eq_some hu
    exact answer_parserRegs hr rfl
  · exact answer_parserRegs hr rfl

theorem eqGet_parserRegs {c : Ctx} (h : execEqGet c s = .next t) : t.parserRegs = s.parserRegs := by
  obtain ⟨rfl, hr⟩ := onlyIn_eq_next h
  split at hr
  · next ev u hu =>
    obtain ⟨-, -, rfl⟩ := eqTake_eq_some hu
    exact answer_parserRegs hr rfl
  · exact answer_parserRegs hr rfl

theorem bufRead_parserRegs {c : Ctx} {x : Nat} {f : BufField} (h : execBufRead c x f s = .next t) :
    t.parserRegs = s.parserRegs := by
  obtain ⟨-, -, hread⟩ := readable_eq_next h
  obtain ⟨rfl, hr⟩ := onlyIn_eq_next hread
  exact parserRegs_of_blockPart (fieldRead_blockPart hr)

theorem handle_parserRegs {c : Ctx} {x : Nat} (h : execHandle c x s = .next t) : t.parserRegs = s.parserRegs := by
  simp only [execHandle] at h
  split at h
  · cases h
  · cases c with
    | irx | wdisp => exact answer_parserRegs h rfl
    | igpio | wevt | platform | reentry => cases h

theorem eventWord_parserRegs {c : Ctx} {rising : Bool} {pin : Half} (h : execEventWord c rising pin s = .next t) :
    t.parserRegs = s.parserRegs := by
  cases c with
  | igpio => exact answer_parserRegs h rfl
  | wevt => exact answer_parserRegs h (parserRegs_of_blockPart (decodePair_blockPart _ _ _))
  | irx | wdisp | platform | reentry => cases h

/-- An operation that only its own context can complete does nothing in the hands of another. -/
theorem not_completes_of_onlyIn {allowed c : Ctx} {r : Result} (hc : decide (c = allowed) = false)
    (h : onlyIn allowed c r = .next t) : False :=
  of_decide_eq_false hc (onlyIn_eq_next h).1

theorem exec_parserRegs {i : Instr} (h : exec i s = .next t) (hi : movesParser i = false) :
    t.parserRegs = s.parserRegs := by
  cases i with
  | spiSetup c => exact tagByte_parserRegs hi dispatchSpiSetup_blockPart h
  | spiTransfer c => exact tagByte_parserRegs hi dispatchSpiTransfer_blockPart h
  | interruptRegister c => exact tagByte_parserRegs hi dispatchInterruptRegister_blockPart h
  | wireReset c => exact tagByte_parserRegs hi dispatchWireReset_blockPart h
  | interruptEvent c => exact interruptEvent_parserRegs hi h
  | spiSetupAnswer c | spiTransferAnswer c | interruptRegisterAnswer c | resetAnswer c =>
    exact tagByte_parserRegs hi dispatchOrSend_blockPart h
  | invalidTag00 c | invalidTag0A c x | invalidTag0C c x | invalidTag10 c x | invalidTag20 c x | invalidTag40 c x
  | invalidTag80 c x => exact tagByte_parserRegs hi dispatchUnknown_blockPart h
  | rxReadLenLow b | rxReadLenHigh b | rxReadData b => cases hi
  | rxByte c b | blockReset c | emit c | abort c => exact (not_completes_of_onlyIn hi h).elim
  | edge c pin rising => exact edge_parserRegs h
  | poolAlloc c => exact poolAlloc_parserRegs h
  | poolRelease c x => exact poolRelease_parserRegs h
  | pqTryPut c x => exact pqTryPut_parserRegs h
  | pqGet c => exact pqGet_parserRegs h
  | eqTryPut c ev => exact eqTryPut_parserRegs h
  | eqGet c => exact eqGet_parserRegs h
  | bufRead c x f => exact bufRead_parserRegs h
  | handle c x => exact handle_parserRegs h
  | eventWord c rising pin => exact eventWord_parserRegs h

end

/-- Settles O17: by everything RX_BYTE can leave. -/
theorem rxByteTouchesParserPoolAndPq : Obligations.RxByteTouchesParserPoolAndPq := by
  intro s t b h
  obtain ⟨u, hu, rfl⟩ := silent_eq_next h
  exact (receive_eq_next hu).withParserOf

/-- Settles O18: by what each of the other operations leaves. -/
theorem onlyBytesAndResetMoveTheParser : Obligations.OnlyBytesAndResetMoveTheParser := by
  intro i s t h hi
  simpa only [State.parserRegs, Prod.mk.injEq] using exec_parserRegs h hi

end Sys2Proof.Machine
end

section
/-! PROOFS. A whole frame (R119), byte after byte: while it is received the rest of the block stands as the tag found it
(`InFrame`), and its buffer holds what has come so far (`Holds`); EMIT then queues that buffer (`Delivered`). -/

namespace Sys2Proof.Machine

section
variable {s t u : State} {h : Nat} {g : Byte}

/-- `t` is in the middle of the frame whose tag was received in `s` into buffer `h`: only the contents of buffers, the place in
the frame and the inputs used up have changed since. -/
def InFrame (s : State) (h : Nat) (t : State) : Prop :=
  t = { s with ps := t.ps, held := true, cur := h, cnt := t.cnt, mem := t.mem, free := s.free.set h false
               own := s.own.set h .parser, allocChoice := t.allocChoice, out := .none, stores := t.stores }

/-- Buffer `h` holds tag `g`, length `n` and, from the start of its payload, `bytes`. -/
structure Holds (t : State) (h : Nat) (g : Byte) (n : Nat) (bytes : List Byte) : Prop where
  command : t.command h = g
  length : (t.length h).toNat = n
  payload : ∀ i, i < bytes.length → some (t.payload h i) = bytes[i]?

/-- What R119 says of the parser, the pool and `PQ` once the frame begun in `s` is queued in buffer `h`. -/
structure Delivered (s : State) (h : Nat) (t : State) : Prop where
  ps : t.ps = .readCommand
  held : t.held = false
  queued : t.queued = s.queued ++ [h]
  owner : t.owner h = .queued
  free : t.free = s.free.set h false
  log : t.log = s.log

/-! The rest of the block during a frame. -/

theorem InFrame.cur (hf : InFrame s h t) : t.cur = h := by rw [hf]

theorem InFrame.cfg (hf : InFrame s h t) : t.cfg = s.cfg := by rw [hf]

theorem InFrame.pq (hf : InFrame s h t) : t.pq = s.pq := by rw [hf]

theorem InFrame.parserOwns (hf : InFrame s h t) (hs : Shape s) (hlt : h < s.cfg.nPackets) : parserOwns t := by
  have hfree : (s.takeBuffer h).isFree h = false := by simp [isFree_takeBuffer (hs.free_length.symm ▸ hlt)]
  have howner : (s.takeBuffer h).owner h = .parser := by simp [owner_takeBuffer (hs.own_length.symm ▸ hlt)]
  rw [hf]
  exact ⟨hlt, hfree, howner⟩

/-- A byte past the tag that does not end the frame. -/
theorem InFrame.next (hf : InFrame s h t)
    (hu : u = { t with mem := u.mem, ps := u.ps, cnt := u.cnt, stores := u.stores, out := .none }) : InFrame s h u := by
  rw [hf] at hu
  rw [InFrame, hu]

/-- R109: EMIT queues the buffer of the frame. -/
theorem InFrame.delivered (hf : InFrame s h t) (hs : Shape s) (hlt : h < s.cfg.nPackets)
    (hroom : s.pq.count s.cfg.pqCap ≠ s.cfg.pqCap) (hu : u = { afterEmit t u.mem with stores := u.stores }) :
    Delivered s h u := by
  have howner : ((s.takeBuffer h).enqueue h).owner h = .queued := by
    rw [owner_enqueue (by simpa using hs.own_length.symm ▸ hlt), if_pos rfl]
  rw [hf] at hu
  rw [hu]
  exact ⟨rfl, rfl, Queue.items_push hs.pq_wf hroom h, howner, rfl, rfl⟩

/-! The buffer of the frame. -/

theorem command_of_kept {as : List Nat} (hk : bytesKept s t as) (hcfg : t.cfg = s.cfg) (hcmd : bufAddr s.cfg h 0 ∉ as) :
    t.command h = s.command h := by
  rw [State.command, State.command, hcfg]
  exact hk _ hcmd

/-- Storing the next byte of the payload adds it to what the buffer holds (R43, R112). -/
theorem Holds.stored {n : Nat} {bytes : List Byte} {b : Byte} (hh : Holds t h g n bytes) (hcfg : u.cfg = t.cfg)
    (hb : u.payload h bytes.length = b) (hk : bytesKept t u [payloadAddr t.cfg h bytes.length]) :
    Holds u h g n (bytes ++ [b]) := by
  have hkept : ∀ off, off ≠ 3 + bytes.length → u.byteAt (bufAddr u.cfg h off) = t.byteAt (bufAddr t.cfg h off) :=
    fun off hoff => by
      rw [hcfg]
      exact hk _ (by simpa [payloadAddr, bufAddr] using hoff)
  refine ⟨?command, ?length, fun i hi => ?payload⟩
  case command => rw [State.command, hkept 0 (by omega), ← State.command, hh.command]
  case length => rw [State.length, hkept 1 (by omega), hkept 2 (by omega), ← State.length, hh.length]
  case payload =>
    rcases Nat.lt_succ_iff_lt_or_eq.1 (by simpa using hi) with hold | rfl
    · rw [List.getElem?_append_left hold, ← hh.payload i hold, State.payload, payloadAddr, hkept _ (by omega)]
      rfl
    · simp [hb]

/-! The bytes. -/

theorem feed_cons_of_exec {b : Byte} (hexec : exec (.rxByte .irx b) s = .next t) (bs : List Byte) :
    feed (b :: bs) s = feed bs t := by
  rw [feed, hexec, andThen_next]

/-- The tag opens the frame and the low length byte is stored (R108, R110). -/
theorem feed_tag_lengthLow (hps : s.ps = .readCommand) (hheld : s.held = false) (hroom : s.exhausted = false)
    (htag : validTag s.cfg g = true) (low : Byte) : ∃ h t, h < s.cfg.nPackets ∧ s.isFree h = true ∧ InFrame s h t ∧
      t.ps = .readLenHigh ∧ t.command h = g ∧ t.length h = low.setWidth 16 ∧
      ∀ bs, feed (g :: low :: bs) s = feed bs t := by
  obtain ⟨h, t, hexec, hlt, hfree, ht, hcmd, -⟩ := opensFrame_rxByte hps hheld hroom htag
  have hf : InFrame s h t := by rw [InFrame, ht]
  have hlow : t.ps = .readLenLow := by rw [ht]
  obtain rfl := hf.cur
  obtain ⟨⟨u, hexec', hu, hlen, hkept⟩, -⟩ := lowLengthByteIsStored t low hlow (by rwa [hf.cfg])
  have hf' : InFrame s t.cur u := hf.next (by rw [hu])
  refine ⟨t.cur, u, hlt, hfree, hf', by rw [hu], ?_, hlen, fun bs => ?_⟩
  · rw [command_of_kept hkept (by rw [hu]) (by simp [bufAddr]), hcmd]
  · rw [feed_cons_of_exec hexec, feed_cons_of_exec hexec']

/-- The two length bytes that a frame of `n` bytes sends stand for `n` (R61). -/
theorem lengthWith_of_low {n : Nat} (hn : n < 2 ^ 16) (hlen : t.length t.cur = (BitVec.ofNat 8 (n % 256)).setWidth 16) :
    lengthWith (BitVec.ofNat 8 (n / 256)) t = n := by
  rw [lengthWith, hlen]
  simp only [BitVec.toNat_setWidth, BitVec.toNat_ofNat]
  omega

/-- What the high length byte leaves in the buffer, whether or not it ends the frame. -/
theorem Holds.of_storesLengthHigh {n : Nat} (hcfg : u.cfg = t.cfg) (hcmd : t.command h = g)
    (hlen : (u.length h).toNat = n) (hkept : bytesKept t u [bufAddr t.cfg h 1, bufAddr t.cfg h 2]) : Holds u h g n [] :=
  ⟨(command_of_kept hkept hcfg (by simp [bufAddr])).trans hcmd, hlen, nofun⟩

theorem toNat_succ_of_lt {c l : Half} (hlt : c.toNat < l.toNat) : (c + 1).toNat = c.toNat + 1 := by
  bv_omega

/-- The payload of a frame, from where it stands to its end (R112). -/
theorem feed_payload (hs : Shape s) (hlt : h < s.cfg.nPackets) (hroom : s.pq.count s.cfg.pqCap ≠ s.cfg.pqCap)
    {n : Nat} (hmax : n ≤ s.cfg.maxPayload) {rest bytes : List Byte} (hne : rest ≠ []) (hf : InFrame s h t)
    (hps : t.ps = .readData) (hcnt : t.cnt.toNat = bytes.length) (hh : Holds t h g n bytes)
    (hn : bytes.length + rest.length = n) :
    ∃ u, feed rest t = .next u ∧ Delivered s h u ∧ Holds u h g n (bytes ++ rest) := by
  induction rest generalizing bytes t with
  | nil => exact absurd rfl hne
  | cons b rest ih =>
    obtain rfl := hf.cur
    have hcfg := hf.cfg
    rw [List.length_cons] at hn
    obtain ⟨hmore, hput, -⟩ := payloadByteIsStored t b hps (hf.parserOwns hs hlt) (by rw [hcfg]; omega)
      (.rxByte .irx b) (by simp)
    have hbelow : t.cnt.toNat < (t.length t.cur).toNat := by
      rw [hh.length]
      omega
    have hlast : t.cnt + 1 = t.length t.cur ↔ rest.length = 0 := by
      rw [succ_eq_iff_not_lt hbelow, hh.length]
      omega
    rw [StoresPayload, hcnt] at hmore hput
    cases rest with
    | nil =>
      obtain ⟨u, hexec, hu, hb, hkept⟩ := hput (hlast.2 rfl) (by rwa [hf.pq, hcfg])
      have hdone : Delivered s t.cur u := hf.delivered hs hlt hroom (by rw [hu]; rfl)
      exact ⟨u, feed_cons_of_exec hexec [], hdone, hh.stored (by rw [hu]; rfl) hb hkept⟩
    | cons b' rest =>
      obtain ⟨u, hexec, hu, hb, hkept⟩ := hmore (mt hlast.1 (by simp))
      have hh' : Holds u t.cur g n (bytes ++ [b]) := hh.stored (by rw [hu]) hb hkept
      have hcnt' : u.cnt.toNat = (bytes ++ [b]).length := by
        rw [hu, List.length_append, ← hcnt]
        exact toNat_succ_of_lt hbelow
      obtain ⟨v, hfeed, hdone, hv⟩ := ih (by simp) (hf.next (by rw [hu])) (by rw [hu]; exact hps) hcnt' hh'
        (by simp only [List.length_append, List.length_cons, List.length_nil] at hn ⊢; omega)
      exact ⟨v, (feed_cons_of_exec hexec _).trans hfeed, hdone, by simpa using hv⟩

/-- From the high length byte on: an empty frame ends there, any other with its last payload byte (R111, R112). -/
theorem feed_lengthHigh_payload (hs : Shape s) (hlt : h < s.cfg.nPackets) (hroom : s.pq.count s.cfg.pqCap ≠ s.cfg.pqCap)
    (hf : InFrame s h t) (hps : t.ps = .readLenHigh) (hcmd : t.command h = g) {high : Byte} {p : List Byte}
    (hlen : lengthWith high t = p.length) (hmax : p.length ≤ s.cfg.maxPayload) :
    ∃ u, feed (high :: p) t = .next u ∧ Delivered s h u ∧ Holds u h g p.length p := by
  obtain rfl := hf.cur
  have hcfg := hf.cfg
  obtain ⟨-, hput, -, hpayload⟩ := highLengthByteDecides t high hps (hf.parserOwns hs hlt) (.rxByte .irx high) (by simp)
  rw [StoresLengthHigh, hlen] at hput hpayload
  cases p with
  | nil =>
    obtain ⟨u, hexec, hu, hn, hkept⟩ := hput rfl (by rwa [hf.pq, hcfg])
    have hdone : Delivered s t.cur u := hf.delivered hs hlt hroom (by rw [hu]; rfl)
    exact ⟨u, feed_cons_of_exec hexec [], hdone, .of_storesLengthHigh (by rw [hu]; rfl) hcmd hn hkept⟩
  | cons b p =>
    obtain ⟨u, hexec, hu, hn, hkept⟩ := hpayload (by simp) (by rwa [hcfg])
    have hh : Holds u t.cur g (b :: p).length [] := .of_storesLengthHigh (by rw [hu]) hcmd hn hkept
    obtain ⟨v, hfeed, hdone, hv⟩ := feed_payload hs hlt hroom hmax (List.cons_ne_nil b p) (hf.next (by rw [hu]))
      (by rw [hu]) (by rw [hu]; rfl) hh (by simp)
    exact ⟨v, (feed_cons_of_exec hexec _).trans hfeed, hdone, hv⟩

end

/-- Settles O19: the tag and the low length byte, then the rest of the frame. -/
theorem frameIsReceivedWhole : Obligations.FrameIsReceivedWhole := by
  intro s g p hinv hps htag hmax hpool hroom
  have ⟨hs, hone, _⟩ := hinv
  have ⟨⟨_, _, hmaxPayload, _⟩, _⟩ := hs
  obtain ⟨h, t, hlt, hfree, hf, hps', hcmd, hlow, hfeed⟩ := feed_tag_lengthLow hps (hone.held_false hps) hpool htag
    (BitVec.ofNat 8 (p.length % 256))
  have hlen : lengthWith (BitVec.ofNat 8 (p.length / 256)) t = p.length :=
    lengthWith_of_low (by omega) (hf.cur.symm ▸ hlow)
  obtain ⟨u, hu, hd, hh⟩ := feed_lengthHigh_payload hs hlt hroom.ne hf hps' hcmd hlen hmax
  exact ⟨h, u, (hfeed _).trans hu, hfree, hlt, hd.ps, hd.held, hd.queued, hd.owner, hd.free, hd.log, hh.command, hh.length,
    hh.payload⟩

end Sys2Proof.Machine
end

section
/-! PROOFS. The event relay (R130 to R133, R170): EDGE by what the event queue holds, the two fields of an encoded word, and
what the event worker makes of the word it holds. -/

namespace Sys2Proof.Machine

/-! The event word (R130). -/

@[simp] theorem eventPin_encodeEvent (pin : Half) (rising : Bool) : eventPin (encodeEvent pin rising) = pin := by
  refine BitVec.eq_of_getLsbD_eq fun i hi => ?_
  simp [eventPin, getLsbD_encodeEvent, hi]

@[simp] theorem eventRising_encodeEvent (pin : Half) (rising : Bool) : eventRising (encodeEvent pin rising) = rising :=
  getLsbD_encodeEvent pin rising 16

theorem decodeEvent_encodeEvent (pin : Half) (rising : Bool) :
    decodeEvent (encodeEvent pin rising) = (pin.toInt, rising) := by
  rw [decodeEvent, eventPin_encodeEvent, eventRising_encodeEvent]

/-- Settles O32: the word's fields are the pair encoded, and two's complement represents the pin in 16 bits. -/
theorem eventWordRoundTrip : Obligations.EventWordRoundTrip := by
  intro pin rising hmin hmax
  have hpin : (BitVec.ofInt 16 pin).toInt = pin := BitVec.toInt_ofInt_eq_self (by decide) hmin (by omega)
  rw [decodeEvent_encodeEvent, hpin]

/-! EDGE (R131). -/

section
variable {s : State}

theorem exec_edge_of_room (hroom : s.evq.count s.cfg.eqCap ≠ s.cfg.eqCap) (pin : Half) (rising : Bool) :
    exec (.edge .igpio pin rising) s =
      .next { s with evq := s.evq.push s.cfg.eqCap (encodeEvent pin rising), out := .none } := by
  simp only [exec, execEdge, onlyIn_self, State.eqPut, Queue.tryPut_of_room hroom, answer]

theorem exec_edge_of_full (hfull : s.evq.count s.cfg.eqCap = s.cfg.eqCap) (pin : Half) (rising : Bool) :
    exec (.edge .igpio pin rising) s = .next { s.drop .queueFullEvent with out := .none } := by
  simp only [exec, execEdge, onlyIn_self, State.eqPut, Queue.tryPut_of_full hfull, answer]

end

/-- Settles O31: a queue with room is pushed, and on a full one the event is dropped. -/
theorem edgeQueuesOrDrops : Obligations.EdgeQueuesOrDrops := fun _ pin rising =>
  ⟨fun hroom => exec_edge_of_room hroom pin rising, fun hfull => exec_edge_of_full hfull pin rising⟩

/-! The event worker (R170). -/

/-- EVENT_WORD with the fields of the word held composes the frame of that pair. -/
theorem exec_eventWord_of_holding {s : State} {ev : Word} (hheld : s.wevt = .holding ev) :
    exec (.eventWord .wevt (eventRising ev) (eventPin ev)) s = .next { s with
      wevt := .sending (eventFrame (eventPin ev) (eventRising ev)), out := .pair (eventPin ev) (eventRising ev) } := by
  simp only [exec, execEventWord, decodePair, hheld, and_self, if_true, answer]

/-- The frame of an event word's pin (R170): its pin bytes are the word's two low bytes. -/
theorem eventFrame_eventPin (ev : Word) (rising : Bool) : eventFrame (eventPin ev) rising =
    { tag := 0x07, payload := [ev.extractLsb' 0 8, ev.extractLsb' 8 8, edgeByte rising] } := by
  have hlow : (eventPin ev).extractLsb' 0 8 = ev.extractLsb' 0 8 := BitVec.extractLsb'_extractLsb'_of_le (by decide)
  have hhigh : (eventPin ev).extractLsb' 8 8 = ev.extractLsb' 8 8 := BitVec.extractLsb'_extractLsb'_of_le (by decide)
  rw [eventFrame, hlow, hhigh]

/-- Settles O45: the frame of the pair held, its pin bytes read off the word. -/
theorem eventWorkerComposesTheFrame : Obligations.EventWorkerComposesTheFrame := by
  intro s ev hheld
  have hexec := exec_eventWord_of_holding hheld
  rw [eventFrame_eventPin] at hexec
  exact hexec

end Sys2Proof.Machine
end

section
/-! PROOFS. The hand-off between the contexts (R141): who may write which part of the block, and who may invoke what; and that
a step is the operation its transaction decodes to (R143, R150). -/

namespace Sys2Proof.Machine

/-! The state split. -/

/-- What IRX alone writes (R141): the parser's registers, the producer's side of `PQ`, and the buffers as they read. -/
def State.rxPart (s : State) : (ParserState × Bool × Nat × Half) × Nat × List Nat × (Nat → Byte) :=
  (s.parserRegs, s.pq.wr, s.pq.slot, s.byteAt)

/-- What IRX leaves to the other contexts, but for `free`, which it shares with the dispatcher. -/
def State.othersPart (s : State) : Nat × Queue Word := (s.pq.rd, s.evq)

/-- What context `c` can leave of the block of `s`, up to what `State.blockPart` erases: the rows of R141, read by context.
Of IRX only its limit is said; `Effect` has what it does within it. -/
inductive Writes (s : State) : Ctx → State → Prop
  | nothing (c : Ctx) : Writes s c s
  | parser {u : State} (hu : u.othersPart = s.othersPart) : Writes s .irx u
  | event (ev : Word) : Writes s .igpio { s with evq := s.evq.push s.cfg.eqCap ev }
  | eventTaken : Writes s .wevt { s with evq := s.evq.pop s.cfg.eqCap }
  | packetTaken (x : Nat) : Writes s .wdisp (s.dequeue x)
  | released (h : Nat) : Writes s .wdisp (s.giveBack h)
  | reset : Writes s .platform s.blockReset

/-- `t` is what context `c` makes of `s`, as far as the block goes. -/
def ContextStep (s : State) (c : Ctx) (t : State) : Prop := ∃ u, Writes s c u ∧ t.blockPart = u.blockPart

section
variable {s t u : State} {c : Ctx}

theorem ContextStep.of_kept (c : Ctx) (h : t.blockPart = s.blockPart) : ContextStep s c t := ⟨s, .nothing c, h⟩

theorem ContextStep.of_answer {o : PortOut} (hw : Writes s c u) (h : answer o u = .next t) : ContextStep s c t :=
  ⟨u, hw, answer_blockPart h rfl⟩

/-! What each context writes, operation by operation. -/

theorem othersPart_of_withParserOf (h : { u with out := .none } = s.withParserOf u) : u.othersPart = s.othersPart :=
  (congrArg State.othersPart h).trans rfl

theorem Effect.othersPart_of_irx {i : Instr} (he : Effect s i u) (hi : caller i = .irx) : u.othersPart = s.othersPart := by
  cases he with
  | received hu => exact othersPart_of_withParserOf hu.withParserOf
  | emit hu => exact othersPart_of_withParserOf (emitPacket_withParserOf hu)
  | abort hu => exact othersPart_of_withParserOf (abortFrame_withParserOf hu)
  | kept | alloc | parserRelease | pqPut => rfl
  | edge | eqPut | pqGet | eqGet | workerRelease | reset => cases hi

theorem contextStep_of_irx {i : Instr} (h : exec i s = .next t) (hi : caller i = .irx) : ContextStep s (caller i) t := by
  obtain ⟨u, he, hb⟩ := exec_blockStep h
  rw [hi]
  exact ⟨u, .parser (he.othersPart_of_irx hi), hb⟩

/-- A byte of the tag table changes the block only in the hands of `IRX`. -/
theorem contextStep_tagByte {b : Byte} {arm : Byte → State → Result} (hc : c ≠ .irx)
    (harm : arm b s = .next t → t.blockPart = s.blockPart) (h : tagByte b arm c s = .next t) : ContextStep s c t := by
  cases c with
  | irx => cases hc rfl
  | wdisp => exact .of_kept _ (harm h)
  | igpio | wevt | platform | reentry => cases h

theorem contextStep_interruptEvent (hc : c ≠ .irx) (h : execInterruptEvent c s = .next t) : ContextStep s c t := by
  simp only [execInterruptEvent] at h
  split at h
  · exact .of_kept _ (forwardEvent_blockPart h)
  all_goals exact contextStep_tagByte hc dispatchUnknown_blockPart h

theorem contextStep_edge {pin : Half} {rising : Bool} (h : exec (.edge c pin rising) s = .next t) : ContextStep s c t := by
  obtain ⟨rfl, -⟩ := onlyIn_eq_next h
  by_cases hfull : s.evq.count s.cfg.eqCap = s.cfg.eqCap
  · cases (exec_edge_of_full hfull pin rising).symm.trans h
    exact .of_kept _ rfl
  · cases (exec_edge_of_room hfull pin rising).symm.trans h
    exact ⟨_, .event (encodeEvent pin rising), rfl⟩

theorem contextStep_eqTryPut {ev : Word} (h : exec (.eqTryPut c ev) s = .next t) : ContextStep s c t := by
  obtain ⟨rfl, -⟩ := onlyIn_eq_next h
  by_cases hfull : s.evq.count s.cfg.eqCap = s.cfg.eqCap
  · cases (exec_eqTryPut_of_full hfull ev).symm.trans h
    exact .of_kept _ rfl
  · cases (exec_eqTryPut_of_room hfull ev).symm.trans h
    exact ⟨_, .event ev, rfl⟩

theorem contextStep_pqGet (h : execPqGet c s = .next t) : ContextStep s c t := by
  obtain ⟨rfl, hr⟩ := onlyIn_eq_next h
  split at hr
  · next x u hu =>
    obtain ⟨-, -, rfl⟩ := pqTake_eq_some hu
    exact ⟨_, .packetTaken x, answer_blockPart hr rfl⟩
  · exact .of_kept _ (answer_blockPart hr rfl)

theorem contextStep_eqGet (h : execEqGet c s = .next t) : ContextStep s c t := by
  obtain ⟨rfl, hr⟩ := onlyIn_eq_next h
  split at hr
  · next ev u hu =>
    obtain ⟨-, -, rfl⟩ := eqTake_eq_some hu
    exact ⟨_, .eventTaken, answer_blockPart hr rfl⟩
  · exact .of_kept _ (answer_blockPart hr rfl)

theorem contextStep_poolRelease {x : Nat} (hc : c ≠ .irx) (h : exec (.poolRelease c x) s = .next t) :
    ContextStep s c t := by
  rw [exec_poolRelease] at h
  obtain ⟨u, hu, ht⟩ := andThen_eq_next h
  obtain ⟨-, -, -, rfl⟩ := release_eq_next.1 hu
  simp only [afterRelease] at ht
  split at ht
  · next hor =>
    obtain rfl := hor.resolve_left hc
    exact ⟨_, .released x, answer_blockPart ht rfl⟩
  · cases ht

theorem contextStep_bufRead {x : Nat} {f : BufField} (h : execBufRead c x f s = .next t) : ContextStep s c t := by
  obtain ⟨-, -, hread⟩ := readable_eq_next h
  exact .of_kept _ (fieldRead_blockPart (onlyIn_eq_next hread).2)

theorem contextStep_handle {x : Nat} (h : execHandle c x s = .next t) : ContextStep s c t := by
  simp only [execHandle] at h
  split at h
  · cases h
  · cases c with
    | irx | wdisp => exact .of_kept _ (answer_blockPart h rfl)
    | igpio | wevt | platform | reentry => cases h

theorem contextStep_eventWord {rising : Bool} {pin : Half} (h : execEventWord c rising pin s = .next t) :
    ContextStep s c t := by
  cases c with
  | igpio => exact .of_kept _ (answer_blockPart h rfl)
  | wevt => exact .of_kept _ (answer_blockPart h (decodePair_blockPart _ _ _))
  | irx | wdisp | platform | reentry => cases h

/-- Every operation writes at most what R141 gives to the context that invokes it. -/
theorem exec_contextStep {i : Instr} (h : exec i s = .next t) : ContextStep s (caller i) t := by
  by_cases hi : caller i = .irx
  · exact contextStep_of_irx h hi
  cases i with
  | spiSetup c => exact contextStep_tagByte hi dispatchSpiSetup_blockPart h
  | spiTransfer c => exact contextStep_tagByte hi dispatchSpiTransfer_blockPart h
  | interruptRegister c => exact contextStep_tagByte hi dispatchInterruptRegister_blockPart h
  | wireReset c => exact contextStep_tagByte hi dispatchWireReset_blockPart h
  | interruptEvent c => exact contextStep_interruptEvent hi h
  | spiSetupAnswer c | spiTransferAnswer c | interruptRegisterAnswer c | resetAnswer c =>
    exact contextStep_tagByte hi dispatchOrSend_blockPart h
  | invalidTag00 c | invalidTag0A c x | invalidTag0C c x | invalidTag10 c x | invalidTag20 c x | invalidTag40 c x
  | invalidTag80 c x => exact contextStep_tagByte hi dispatchUnknown_blockPart h
  | rxReadLenLow b | rxReadLenHigh b | rxReadData b => cases hi rfl
  | rxByte c | poolAlloc c | pqTryPut c | emit c | abort c => cases hi (onlyIn_eq_next h).1
  | edge c pin rising => exact contextStep_edge h
  | poolRelease c x => exact contextStep_poolRelease hi h
  | pqGet c => exact contextStep_pqGet h
  | eqTryPut c ev => exact contextStep_eqTryPut h
  | eqGet c => exact contextStep_eqGet h
  | bufRead c x f => exact contextStep_bufRead h
  | blockReset c =>
    obtain ⟨rfl, hr⟩ := onlyIn_eq_next h
    exact .of_answer .reset hr
  | handle c x => exact contextStep_handle h
  | eventWord c rising pin => exact contextStep_eventWord h

/-! What each context leaves to the others. -/

theorem ContextStep.rxPart (h : ContextStep s c t) (hp : c ≠ .platform) (hc : c ≠ .irx) : t.rxPart = s.rxPart := by
  obtain ⟨u, hw, hb⟩ := h
  refine (congrArg State.rxPart hb).trans ?_
  cases hw with
  | parser => cases hc rfl
  | reset => cases hp rfl
  | nothing | event | eventTaken | packetTaken | released => rfl

theorem ContextStep.pq_rd (h : ContextStep s c t) (hp : c ≠ .platform) (hc : c ≠ .wdisp) : t.pq.rd = s.pq.rd := by
  obtain ⟨u, hw, hb⟩ := h
  refine (congrArg (·.pq.rd) hb).trans ?_
  cases hw with
  | packetTaken | released => cases hc rfl
  | reset => cases hp rfl
  | parser hu => exact congrArg Prod.fst hu
  | nothing | event | eventTaken => rfl

theorem ContextStep.evq_written (h : ContextStep s c t) (hp : c ≠ .platform) (hc : c ≠ .igpio) :
    t.evq.wr = s.evq.wr ∧ t.evq.slot = s.evq.slot := by
  obtain ⟨u, hw, hb⟩ := h
  refine Prod.mk.inj ((congrArg (fun v => (v.evq.wr, v.evq.slot)) hb).trans ?_)
  cases hw with
  | event => cases hc rfl
  | reset => cases hp rfl
  | parser hu => exact congrArg (fun v => (v.2.wr, v.2.slot)) hu
  | nothing | eventTaken | packetTaken | released => rfl

theorem ContextStep.evq_rd (h : ContextStep s c t) (hp : c ≠ .platform) (hc : c ≠ .wevt) : t.evq.rd = s.evq.rd := by
  obtain ⟨u, hw, hb⟩ := h
  refine (congrArg (·.evq.rd) hb).trans ?_
  cases hw with
  | eventTaken => cases hc rfl
  | reset => cases hp rfl
  | parser hu => exact congrArg (·.2.rd) hu
  | nothing | event | packetTaken | released => rfl

theorem ContextStep.free_eq (h : ContextStep s c t) (hp : c ≠ .platform) (hirx : c ≠ .irx) (hdisp : c ≠ .wdisp) :
    t.free = s.free := by
  obtain ⟨u, hw, hb⟩ := h
  refine (congrArg State.free hb).trans ?_
  cases hw with
  | parser => cases hirx rfl
  | packetTaken | released => cases hdisp rfl
  | reset => cases hp rfl
  | nothing | event | eventTaken => rfl

end

/-- Settles O36, by what each context writes of the block. -/
theorem stateSplitsByContext : Obligations.StateSplitsByContext := by
  intro i s t h hp
  have hstep : ContextStep s (caller i) t := exec_contextStep h
  refine ⟨fun hirx => ?rx, hstep.pq_rd hp, hstep.evq_written hp, hstep.evq_rd hp, hstep.free_eq hp⟩
  case rx =>
    have hrx : t.rxPart = s.rxPart := hstep.rxPart hp hirx
    simpa only [State.rxPart, State.parserRegs, Prod.mk.injEq, and_assoc, funext_iff] using hrx

/-! Who may invoke what. -/

/-- Settles O35: where a handle is checked first, its faults are passed before the context's. -/
theorem wrongContextFaults : Obligations.WrongContextFaults := by
  intro s c
  refine ⟨fun hc => ⟨fun _ => onlyIn_of_ne hc _, onlyIn_of_ne hc _, fun _ => onlyIn_of_ne hc _⟩,
    fun hirx hdisp h hlt hfree ho => ?release, fun hc => ⟨onlyIn_of_ne hc _, fun h f hlt ho => ?read⟩,
    fun hc => ⟨fun _ _ => onlyIn_of_ne hc _, fun _ => onlyIn_of_ne hc _⟩, fun hc => onlyIn_of_ne hc _⟩
  case release =>
    have howner : s.owner h = releaser c := ho.trans (if_neg hirx).symm
    rw [exec_poolRelease_of_owner hlt hfree howner]
    exact if_neg (not_or.2 ⟨hirx, hdisp⟩)
  case read => rw [exec_bufRead, readable_of_worker hlt ho, onlyIn_of_ne hc]

/-! The step. -/

/-- Only a worker's own loop is not read by the decoder, and the decoder refuses it. -/
theorem fetch_of_decode {s : State} {t : Txn} {i : Instr} (hd : decode s.cfg s.ps t = .ok i) : fetch s t = .ok i := by
  simp only [fetch]
  split
  · next hrun =>
    rw [decode, hrun] at hd
    cases hd
  all_goals exact hd

/-- Settles O50: the head of the trace is fetched as it decodes, and nothing before it is held. -/
theorem stepRunsTheDecodedOperation : Obligations.StepRunsTheDecodedOperation := by
  intro s t rest i htrace hd _ henabled
  have hf : fetch s t = .ok i := fetch_of_decode hd
  have hheld : held s t = false := (held_of_fetch hf).trans henabled
  refine step_of_pick_some ?_ hf
  rw [htrace, pick_cons_of_enabled List.not_mem_nil hheld]

end Sys2Proof.Machine
end

section
/-! PROOFS. The environment's two worker loops (R161, R166, R170 to R173): `send` case by case of the FrameWriter's lock, once
for both workers; which arm a tag is to the dispatcher; and that a worker's turn at the head of the trace is the next operation
of its loop. -/

namespace Sys2Proof.Machine

section
variable {s : State}

/-! `send` (R172, R173), by whichever worker. -/

/-- One step of `send`, by who holds the lock and what is left of the frame. -/
theorem sendStep_by_lock (c : Ctx) (f : Frame) (done : State → State) (s : State) :
    (s.writer = none → sendStep c f done s =
      .next { s with writer := some { holder := c, rest := f.bytes }, out := .none }) ∧
    (∀ w, s.writer = some w → w.holder ≠ c → sendStep c f done s = .next { s with out := .held }) ∧
    (∀ b bs, s.writer = some { holder := c, rest := b :: bs } → sendStep c f done s =
      .next { s with tx := s.tx ++ [b], writer := some { holder := c, rest := bs }, out := .none }) ∧
    (s.writer = some { holder := c, rest := [] } → sendStep c f done s =
      .next { done { s with writer := none } with out := .none }) := by
  refine ⟨fun hlock => ?acquire, fun w hlock hother => ?wait, fun b bs hlock => ?byte, fun hlock => ?unlock⟩
  case wait => simp [sendStep, answer, hlock, hother]
  case acquire | byte | unlock => simp [sendStep, answer, hlock]

/-- The event worker in `send` (R170). -/
theorem exec_interruptEvent_of_sending {f : Frame} (hevt : s.wevt = .sending f) :
    exec (.interruptEvent .wevt) s = sendStep .wevt f (fun t => { t with wevt := .idle }) s := by
  change forwardEvent s = _
  rw [forwardEvent, hevt]

/-! A tag in the dispatcher's hands. -/

theorem exec_answerRow : ∀ r ∈ answerRows, exec r.1 s = dispatchOrSend r.2 s := by
  simp only [answerRows, List.forall_mem_cons]
  exact ⟨rfl, rfl, rfl, rfl, fun _ hr => nomatch hr⟩

/-- The tag of the answer being sent is a step of `send`. -/
theorem dispatchOrSend_of_answering {h : Nat} {f : Frame} {tag : Byte} (hdisp : s.wdisp = .answering h f)
    (htag : f.tag = tag) : dispatchOrSend tag s = sendStep .wdisp f (fun t => { t with wdisp := .answered h }) s := by
  rw [dispatchOrSend, hdisp]
  exact if_pos htag

theorem dispatchOrSend_of_holding {h : Nat} (hdisp : s.wdisp = .holding h) (tag : Byte) :
    dispatchOrSend tag s = dispatchUnknown tag s := by
  rw [dispatchOrSend, hdisp]

/-- R161: to a dispatcher that holds a packet each of the nine tags is an arm of its `case cmd`, the arm of its own byte. -/
theorem exec_tagRow_eq_dispatching {h : Nat} (hdisp : s.wdisp = .holding h) :
    ∀ r ∈ tagRows .wdisp, ∃ arm, exec r.1 s = dispatching r.2 s arm := by
  have hanswer : ∀ tag, ∃ arm, dispatchOrSend tag s = dispatching tag s arm := fun tag =>
    ⟨_, dispatchOrSend_of_holding hdisp tag⟩
  simp only [tagRows, List.forall_mem_cons]
  exact ⟨⟨_, rfl⟩, hanswer _, ⟨_, rfl⟩, hanswer _, ⟨_, rfl⟩, hanswer _, ⟨_, rfl⟩, ⟨_, rfl⟩, hanswer _,
    fun _ hr => nomatch hr⟩

theorem decodeTag_tagRow : ∀ r ∈ tagRows .wdisp, decodeTag .wdisp r.2 = r.1 := by decide

theorem mem_tagRows_of_mem_answerRows : ∀ r ∈ answerRows, r ∈ tagRows .wdisp := by decide

/-! When a worker's operation waits (R97, R172). -/

/-- A tag waits only where the dispatcher is in `send` and the lock is busy. -/
theorem waits_tagRow (hlock : s.dispLockWait = false) : ∀ r ∈ tagRows .wdisp, waits r.1 s = false := by
  simp only [tagRows, List.forall_mem_cons]
  exact ⟨rfl, hlock, rfl, hlock, rfl, hlock, rfl, rfl, hlock, fun _ hr => nomatch hr⟩

theorem dispLockWait_of_holding {h : Nat} (hdisp : s.wdisp = .holding h) : s.dispLockWait = false := by
  rw [State.dispLockWait, hdisp]

theorem dispLockWait_of_answering {h : Nat} {f : Frame} (hdisp : s.wdisp = .answering h f) :
    s.dispLockWait = s.lockBusy .wdisp := by
  rw [State.dispLockWait, hdisp]

theorem waits_interruptEvent_of_sending {f : Frame} (hevt : s.wevt = .sending f) :
    waits (.interruptEvent .wevt) s = s.lockBusy .wevt := by
  rw [waits, State.evtLockWait, hevt]

theorem waits_pqGet_of_nonempty (hne : s.pq.count s.cfg.pqCap ≠ 0) : waits (.pqGet .wdisp) s = false := by
  simp [waits, State.pqNotEmpty, Queue.isEmpty, hne]

theorem waits_eqGet_of_nonempty (hne : s.evq.count s.cfg.eqCap ≠ 0) : waits (.eqGet .wevt) s = false := by
  simp [waits, State.eqNotEmpty, Queue.isEmpty, hne]

/-! A worker's turn. -/

/-- A worker whose turn it is, and whose next operation is enabled, makes that operation its step. -/
theorem step_of_loopStep {c : Ctx} {i : Instr} {rest : List Txn}
    (htrace : s.trace = { port := .run, ctx := c, data := 0 } :: rest) (hloop : loopStep c s = .ok i)
    (henabled : waits i s = false) : step s = exec i { s with trace := rest } := by
  have hf : fetch s { port := .run, ctx := c, data := 0 } = .ok i := hloop
  refine step_of_pick_some ?_ hf
  rw [htrace, pick_cons_of_enabled List.not_mem_nil ((held_of_fetch hf).trans henabled)]

/-! What that operation is (R161, R170). -/

theorem loopStep_of_idle (hdisp : s.wdisp = .idle) : loopStep .wdisp s = .ok (.pqGet .wdisp) := by
  rw [loopStep, hdisp]

theorem loopStep_of_holding {h : Nat} (hdisp : s.wdisp = .holding h) {r : Instr × Byte} (hr : r ∈ tagRows .wdisp)
    (hcmd : s.command h = r.2) : loopStep .wdisp s = .ok r.1 := by
  rw [loopStep, hdisp, ← decodeTag_tagRow r hr, ← hcmd]

theorem loopStep_of_answering {h : Nat} {f : Frame} (hdisp : s.wdisp = .answering h f) {r : Instr × Byte}
    (hr : r ∈ tagRows .wdisp) (htag : f.tag = r.2) : loopStep .wdisp s = .ok r.1 := by
  rw [loopStep, hdisp, ← decodeTag_tagRow r hr, ← htag]

theorem loopStep_of_answered {h : Nat} (hdisp : s.wdisp = .answered h) :
    loopStep .wdisp s = .ok (.poolRelease .wdisp h) := by
  rw [loopStep, hdisp]

theorem loopStep_of_evtIdle (hevt : s.wevt = .idle) : loopStep .wevt s = .ok (.eqGet .wevt) := by
  rw [loopStep, hevt]

theorem loopStep_of_evtHolding {ev : Word} (hevt : s.wevt = .holding ev) :
    loopStep .wevt s = .ok (.eventWord .wevt (ev.getLsbD 16) (ev.extractLsb' 0 16)) := by
  rw [loopStep, hevt]
  rfl

theorem loopStep_of_evtSending {f : Frame} (hevt : s.wevt = .sending f) :
    loopStep .wevt s = .ok (.interruptEvent .wevt) := by
  rw [loopStep, hevt]

end

/-- Settles O48: an arm other than the held command's by `dispatching_other_command`, then the four phases of the loop. -/
theorem dispatcherRunsItsLoop : Obligations.DispatcherRunsItsLoop := by
  refine ⟨?otherArm, ?loop⟩
  case otherArm =>
    rintro s h cmd ⟨hdisp, hlt, howner, rfl⟩ r hr hne
    obtain ⟨arm, harm⟩ := exec_tagRow_eq_dispatching hdisp r hr
    exact harm.trans (dispatching_other_command hdisp hlt howner hne)
  case loop =>
    rintro s rest htrace s' rfl
    refine ⟨fun hdisp hne => ?get, fun h hdisp r hr hcmd => ?arm, fun h f hdisp hlock r hr htag => ?send,
      fun h hdisp => ?release⟩
    case get => exact step_of_loopStep htrace (loopStep_of_idle hdisp) (waits_pqGet_of_nonempty hne)
    case arm =>
      have henabled : waits r.1 s = false := waits_tagRow (dispLockWait_of_holding hdisp) r hr
      exact step_of_loopStep htrace (loopStep_of_holding hdisp hr hcmd) henabled
    case send =>
      have hrow : r ∈ tagRows .wdisp := mem_tagRows_of_mem_answerRows r hr
      have henabled : waits r.1 s = false := waits_tagRow ((dispLockWait_of_answering hdisp).trans hlock) r hrow
      exact step_of_loopStep htrace (loopStep_of_answering hdisp hrow htag) henabled
    case release => exact step_of_loopStep htrace (loopStep_of_answered hdisp) rfl

/-- Settles O42: the arm of the command held, which is the adapters' reset and the ack (R166). -/
theorem wireResetResetsAdaptersOnly : Obligations.WireResetResetsAdaptersOnly :=
  fun _ _ hh => dispatching_of_holds hh _

/-- Settles O44: each answer row is a step of `send` by the dispatcher. -/
theorem dispatcherSendsItsAnswer : Obligations.DispatcherSendsItsAnswer := by
  intro s h f hdisp r hr htag
  rw [exec_answerRow r hr, dispatchOrSend_of_answering hdisp htag]
  exact sendStep_by_lock _ f _ s

/-- Settles O46: InterruptEvent is a step of `send` by the event worker. -/
theorem eventWorkerSendsItsFrame : Obligations.EventWorkerSendsItsFrame := by
  intro s f hevt
  rw [exec_interruptEvent_of_sending hevt]
  exact sendStep_by_lock _ f _ s

/-- A pin's two bytes on the wire are its 16-bit value's low and high byte (R171). -/
theorem pinBytes_eq_ofNat (pin : Half) : pin.extractLsb' 0 8 = BitVec.ofNat 8 (pin.toNat % 256) ∧
    pin.extractLsb' 8 8 = BitVec.ofNat 8 (pin.toNat / 256) := by
  constructor <;> apply BitVec.eq_of_toNat_eq
  · simp
  · simp [Nat.shiftRight_eq_div_pow]

/-- Settles O47: three payload bytes, of which the first two are the pin's. -/
theorem eventFrameIsSixBytes : Obligations.EventFrameIsSixBytes := by
  intro pin rising
  obtain ⟨hlow, hhigh⟩ := pinBytes_eq_ofNat pin
  simp [Frame.bytes, eventFrame, edgeByte, hlow, hhigh]

/-- Settles O49: the three phases of the loop. -/
theorem eventWorkerRunsItsLoop : Obligations.EventWorkerRunsItsLoop := by
  rintro s rest htrace s' rfl
  refine ⟨fun hevt hne => ?get, fun ev hevt => ?decode, fun f hevt hlock => ?send⟩
  case get => exact step_of_loopStep htrace (loopStep_of_evtIdle hevt) (waits_eqGet_of_nonempty hne)
  case decode => exact step_of_loopStep htrace (loopStep_of_evtHolding hevt) rfl
  case send =>
    have henabled : waits (.interruptEvent .wevt) s = false := (waits_interruptEvent_of_sending hevt).trans hlock
    exact step_of_loopStep htrace (loopStep_of_evtSending hevt) henabled

end Sys2Proof.Machine
end

section
/-! PROOFS. Order and simultaneity (R192, R193). RX_BYTE reads neither `EQ` nor the ghost log nor the last result, so beside any
values of these it does the same and records the same, at most one, recovered condition (`RunsBeside`); EDGE writes nothing
else. -/

namespace Sys2Proof.Machine

/-- `s` with other values of the registers that RX_BYTE does not read: the event queue, the ghost log and the last result. -/
def State.beside (s : State) (q : Queue Word) (l : List DropReason) (o : PortOut) : State :=
  { s with evq := q, log := l, out := o }

/-- Whatever the event queue, the log and the last result of `s` are, `op` completes, with `t` but for these: the queue and the
result are kept, and the log is given at most one condition, the same one each time and none of EDGE's. -/
def RunsBeside (op : State → Result) (s t : State) : Prop :=
  ∃ d : Option DropReason, d ≠ some .queueFullEvent ∧
    ∀ q l o, op (s.beside q l o) = .next (t.beside q (l ++ d.toList) o)

section
variable {s t : State} {b : Byte}

theorem RunsBeside.of_quiet {op : State → Result} (h : ∀ q l o, op (s.beside q l o) = .next (t.beside q l o)) :
    RunsBeside op s t :=
  ⟨none, nofun, by simpa using h⟩

theorem RunsBeside.of_drop {op : State → Result} (r : DropReason) (hr : r ≠ .queueFullEvent)
    (h : ∀ q l o, op (s.beside q l o) = .next (t.beside q (l ++ [r]) o)) : RunsBeside op s t :=
  ⟨some r, by simpa using hr, h⟩

/-- An operation that goes over, without a drop, into one that runs beside anything does so too. -/
theorem RunsBeside.of_eq {op op' : State → Result} {s' : State} (h : RunsBeside op' s' t)
    (he : ∀ q l o, op (s.beside q l o) = op' (s'.beside q l o)) : RunsBeside op s t := by
  obtain ⟨d, hd, hrun⟩ := h
  exact ⟨d, hd, fun q l o => (he q l o).trans (hrun q l o)⟩

/-! The two endings. -/

theorem abortFrame_beside (h : abortFrame s = .next t) (q : Queue Word) (l : List DropReason) (o : PortOut) :
    abortFrame (s.beside q l o) = .next (t.beside q l o) := by
  obtain ⟨hlt, hfree, howner, rfl⟩ := abortFrame_eq_next.1 h
  exact abortFrame_eq_next.2 ⟨hlt, hfree, howner, rfl⟩

/-- A drop that goes before the abort is one in the log beside too. -/
theorem abortFrame_drop_beside {r : DropReason} (h : abortFrame (s.drop r) = .next t) (q : Queue Word) (l : List DropReason)
    (o : PortOut) : abortFrame ((s.beside q l o).drop r) = .next (t.beside q (l ++ [r]) o) :=
  abortFrame_beside h q (l ++ [r]) o

theorem emitPacket_runsBeside (h : emitPacket s = .next t) : RunsBeside emitPacket s t := by
  rcases emitPacket_cases s with ⟨hroom, he⟩ | ⟨hfull, he⟩
  · cases he.symm.trans h
    refine .of_quiet fun q l o => ?_
    rcases emitPacket_cases (s.beside q l o) with ⟨-, hb⟩ | ⟨hfull, -⟩
    · exact hb
    · exact absurd hfull hroom
  · have habort : abortFrame (s.drop .queueFullFrame) = .next t := he.symm.trans h
    refine .of_drop .queueFullFrame nofun fun q l o => ?_
    rcases emitPacket_cases (s.beside q l o) with ⟨hroom, -⟩ | ⟨-, hb⟩
    · exact absurd hfull hroom
    · exact hb.trans (abortFrame_drop_beside habort q l o)

/-! The four states of the parser. -/

/-- POOL.ALLOC's choice depends on the pool and its own input alone (R81). -/
theorem allocate_beside (s : State) (q : Queue Word) (l : List DropReason) (o : PortOut) :
    (s.beside q l o).allocate = (s.allocate.1, s.allocate.2.beside q l o) := by
  have hchoice : (s.beside q l o).chooseFree = s.chooseFree := rfl
  simp only [State.allocate, hchoice]
  cases s.chooseFree <;> rfl

theorem storeCommand_runsBeside (h : storeCommand b s = .next t) : RunsBeside (storeCommand b) s t := by
  obtain ⟨hcur, rfl⟩ := storeCommand_eq_next h
  exact .of_quiet fun _ _ _ => if_pos hcur

theorem rxReadCommand_runsBeside (h : rxReadCommand b s = .next t) : RunsBeside (rxReadCommand b) s t := by
  simp only [rxReadCommand] at h
  split at h
  · next htag =>
    cases h
    exact .of_drop .invalidTag nofun fun _ _ _ => if_pos htag
  next htag =>
  split at h
  · next hheld =>
    exact (storeCommand_runsBeside h).of_eq fun _ _ _ => (if_neg htag).trans (if_pos hheld)
  next hheld =>
  split at h
  · next u halloc =>
    cases h
    refine .of_drop .noBuffer nofun fun q l o => ?_
    simp only [rxReadCommand, allocate_beside, halloc]
    exact (if_neg htag).trans (if_neg hheld)
  · next x u halloc =>
    refine (storeCommand_runsBeside h).of_eq fun q l o => ?_
    simp only [rxReadCommand, allocate_beside, halloc]
    exact (if_neg htag).trans (if_neg hheld)

theorem rxReadLenHigh_runsBeside (h : rxReadLenHigh b s = .next t) : RunsBeside (rxReadLenHigh b) s t := by
  obtain ⟨hcur, hr⟩ := withCur_eq_next h
  split at hr
  · next hmax =>
    exact .of_drop .oversizeLength nofun fun q l o =>
      (if_pos hcur).trans ((if_pos hmax).trans (abortFrame_drop_beside hr q l o))
  next hmax =>
  split at hr
  · next hzero =>
    exact (emitPacket_runsBeside hr).of_eq fun _ _ _ => (if_pos hcur).trans ((if_neg hmax).trans (if_pos hzero))
  · next hpos =>
    cases hr
    exact .of_quiet fun _ _ _ => (if_pos hcur).trans ((if_neg hmax).trans (if_neg hpos))

theorem rxReadData_runsBeside (h : rxReadData b s = .next t) : RunsBeside (rxReadData b) s t := by
  obtain ⟨hcur, hr⟩ := withCur_eq_next h
  split at hr
  · cases hr
  next hcnt =>
  split at hr
  · next hlast =>
    exact (emitPacket_runsBeside hr).of_eq fun _ _ _ => (if_pos hcur).trans ((if_neg hcnt).trans (if_pos hlast))
  · next hmore =>
    cases hr
    exact .of_quiet fun _ _ _ => (if_pos hcur).trans ((if_neg hcnt).trans (if_neg hmore))

/-- R105: no state of the parser reads `EQ`, the log or the last result, and none records two conditions. -/
theorem receive_runsBeside (h : receive b s = .next t) : RunsBeside (receive b) s t := by
  have hrow : ∀ q l o, (s.beside q l o).ps = s.ps := fun _ _ _ => rfl
  cases hps : s.ps <;> simp only [receive, hps] at h
  case readCommand => exact (rxReadCommand_runsBeside h).of_eq fun q l o => by simp only [receive, hrow, hps]
  case readLenLow =>
    obtain ⟨hcur, hr⟩ := withCur_eq_next h
    cases hr
    refine .of_quiet fun q l o => ?_
    simp only [receive, hrow, hps]
    exact if_pos hcur
  case readLenHigh => exact (rxReadLenHigh_runsBeside h).of_eq fun q l o => by simp only [receive, hrow, hps]
  case readData => exact (rxReadData_runsBeside h).of_eq fun q l o => by simp only [receive, hrow, hps]

/-- The condition is added to the log that the operation finds, and the event queue is as it was. -/
theorem evq_log_of_runsBeside {op : State → Result} {d : Option DropReason} (h : op s = .next t)
    (hrun : ∀ q l o, op (s.beside q l o) = .next (t.beside q (l ++ d.toList) o)) :
    t.evq = s.evq ∧ t.log = s.log ++ d.toList := by
  have hown : op s = .next (t.beside s.evq (s.log ++ d.toList) s.out) := hrun s.evq s.log s.out
  have ht : t = t.beside s.evq (s.log ++ d.toList) s.out := Host.Outcome.next.inj (h.symm.trans hown)
  exact ⟨(congrArg State.evq ht :), (congrArg State.log ht :)⟩

/-- R131: what EDGE writes is determined by `EQ` and its capacity, and is beside what RX_BYTE reads. -/
theorem exec_edge_beside (s : State) (pin : Half) (rising : Bool) : ∃ q e, ∀ u : State, u.evq = s.evq → u.cfg = s.cfg →
    exec (.edge .igpio pin rising) u = .next (u.beside q (u.log ++ e) .none) := by
  by_cases hfull : s.evq.count s.cfg.eqCap = s.cfg.eqCap
  · refine ⟨s.evq, [.queueFullEvent], fun u hevq hcfg => ?_⟩
    rw [← hevq, ← hcfg] at hfull
    rw [← hevq]
    exact exec_edge_of_full hfull pin rising
  · refine ⟨s.evq.push s.cfg.eqCap (encodeEvent pin rising), [], fun u hevq hcfg => ?_⟩
    rw [← hevq, ← hcfg] at hfull ⊢
    rw [List.append_nil]
    exact exec_edge_of_room hfull pin rising

end

/-- Settles O16: whatever RX_BYTE does, it records at most one condition; on an invalid tag it is R106 that applies. -/
theorem oneDropPerByte : Obligations.OneDropPerByte := by
  intro s t b h
  refine ⟨?one, fun hps htag => ?tagFirst⟩
  case one =>
    obtain ⟨u, hu, rfl⟩ := silent_eq_next h
    obtain ⟨d, hd, hrun⟩ := receive_runsBeside hu
    obtain ⟨-, hlog⟩ := evq_log_of_runsBeside hu hrun
    cases d with
    | none => exact .inl (hlog.trans (List.append_nil _))
    | some r => exact .inr ⟨r, hlog, fun hr => hd (congrArg some hr)⟩
  case tagFirst =>
    cases (exec_rxByte_of_invalid hps htag).symm.trans h
    rfl

/-- Settles O33: EDGE finds the queue that RX_BYTE leaves alone, so it writes the same in either order; and beside what it
writes RX_BYTE does the same. -/
theorem edgeCommutesWithRxByte : Obligations.EdgeCommutesWithRxByte := by
  intro s s1 s2 b pin rising hrx hedge
  obtain ⟨u, hu, rfl⟩ := silent_eq_next hrx
  obtain ⟨d, -, hrun⟩ := receive_runsBeside hu
  obtain ⟨hevq, hlog⟩ := evq_log_of_runsBeside hu hrun
  have hcfg : u.cfg = s.cfg := congrArg Prod.fst (receive_eq_next hu).program_eq
  obtain ⟨q, e, hwrites⟩ := exec_edge_beside s pin rising
  cases (hwrites { u with out := .none } hevq hcfg).symm.trans hedge
  refine ⟨_, _, hwrites s rfl rfl, exec_rxByte_of_receive (hrun q (s.log ++ e) .none), rfl, ?log⟩
  change (u.log ++ e).Perm (s.log ++ e ++ d.toList)
  rw [hlog, List.append_assoc, List.append_assoc]
  exact List.perm_append_comm.append_left s.log

end Sys2Proof.Machine
end

section
/-! PROOFS. The invariants of section 9 at power-on (R27), and the openness of the allocation there (D8): the buffer that the input
asks for is the one handed out, if it is free. -/

namespace Sys2Proof.Machine

/-- Settles O58: power-on is a reset of a machine with the given parameters. -/
theorem bootHasBlockInvariants : Obligations.BootHasBlockInvariants :=
  fun _ hok => State.afterReset_blockInv hok 0

/-- D8: the buffer wanted is the one chosen, if it is free. -/
theorem chooseFree_of_wanted {s : State} {h : Nat} (hlt : h < s.cfg.nPackets) (hfree : s.isFree h = true)
    (hwant : s.allocChoice.head? = some h) : s.chooseFree = some h := by
  have hmem : h ∈ s.freeSet := mem_freeSet.2 ⟨hlt, hfree⟩
  rw [State.chooseFree]
  split
  · next hnil => cases hnil ▸ hmem
  · simp [hwant, Option.filter_some, hmem]

/-- Settles O22: the allocation answers the buffer chosen. -/
theorem everyFreeBufferCanBeChosen : Obligations.EveryFreeBufferCanBeChosen := by
  intro s h hlt hfree hwant
  have halloc : s.allocate = (some h, s.takeBuffer h) := by rw [State.allocate, chooseFree_of_wanted hlt hfree hwant]
  exact ⟨{ s.takeBuffer h with out := .handle h }, by simp only [exec, execPoolAlloc, onlyIn_self, halloc, answer], rfl⟩

end Sys2Proof.Machine
end

section
/-! PROOFS. Zero bytes end any frame (R221): each one that comes in the middle of a frame lowers a bound on how many more can be
needed (`State.zerosToEnd`). -/

namespace Sys2Proof.Machine

section
variable {s t : State}

/-- A bound on the zero bytes that bring the parser back to ReadCommand: the length bytes still to come, and all of the payload
that is left, which before the high length byte can be any within `MAX_PAYLOAD`. -/
def State.zerosToEnd (s : State) : Nat :=
  match s.ps with
  | .readCommand => 0
  | .readLenLow => 2 + s.cfg.maxPayload
  | .readLenHigh => 1 + s.cfg.maxPayload
  | .readData => (s.length s.cur).toNat - s.cnt.toNat

theorem zerosToEnd_of_readCommand (hps : s.ps = .readCommand) : s.zerosToEnd = 0 := by
  rw [State.zerosToEnd, hps]

theorem zerosToEnd_of_readLenLow (hps : s.ps = .readLenLow) : s.zerosToEnd = 2 + s.cfg.maxPayload := by
  rw [State.zerosToEnd, hps]

theorem zerosToEnd_of_readLenHigh (hps : s.ps = .readLenHigh) : s.zerosToEnd = 1 + s.cfg.maxPayload := by
  rw [State.zerosToEnd, hps]

theorem zerosToEnd_of_readData (hps : s.ps = .readData) : s.zerosToEnd = (s.length s.cur).toNat - s.cnt.toNat := by
  rw [State.zerosToEnd, hps]

/-- R31: no frame is longer than `MAX_PAYLOAD` once its length is known. -/
theorem CounterOk.zerosToEnd_le_maxPayload (h : CounterOk s) (hlow : s.ps ≠ .readLenLow) (hhigh : s.ps ≠ .readLenHigh) :
    s.zerosToEnd ≤ s.cfg.maxPayload := by
  cases hps : s.ps with
  | readCommand => simp [zerosToEnd_of_readCommand hps]
  | readLenLow => exact absurd hps hlow
  | readLenHigh => exact absurd hps hhigh
  | readData =>
    obtain ⟨hmax, -⟩ := h.lt_length hps
    rw [zerosToEnd_of_readData hps]
    omega

theorem CounterOk.zerosToEnd_le (h : CounterOk s) : s.zerosToEnd ≤ 2 + s.cfg.maxPayload := by
  cases hps : s.ps with
  | readLenLow => rw [zerosToEnd_of_readLenLow hps]
  | readLenHigh =>
    rw [zerosToEnd_of_readLenHigh hps]
    omega
  | readCommand | readData =>
    have hle := h.zerosToEnd_le_maxPayload (by simp [hps]) (by simp [hps])
    omega

/-- R112: a payload byte that is not the last is stored and counted. -/
theorem exec_rxByte_of_more (hps : s.ps = .readData) (hcur : s.cur < s.cfg.nPackets) (hcnt : s.cnt.toNat < s.cfg.maxPayload)
    (hmore : s.cnt + 1 ≠ s.length s.cur) (b : Byte) :
    exec (.rxByte .irx b) s = .next { s.storeNext b with out := .none } := by
  rw [exec_rxByte_of_receive (receive_payload hps hcur hcnt), if_neg hmore]
  rfl

theorem zerosToEnd_storeNext (hps : s.ps = .readData) (hcnt : s.cnt.toNat < s.cfg.maxPayload)
    (hlt : s.cnt.toNat < (s.length s.cur).toNat) (b : Byte) :
    (s.storeNext b).zerosToEnd = (s.length s.cur).toNat - (s.cnt.toNat + 1) := by
  obtain ⟨-, hlen⟩ := header_storeNext hcnt b
  rw [zerosToEnd_of_readData (s := s.storeNext b) hps, ← toNat_succ_of_lt hlt, ← hlen]
  rfl

theorem BlockInv.rxByte {b : Byte} (h : BlockInv s) (hexec : exec (.rxByte .irx b) s = .next t) :
    BlockInv t ∧ t.cfg = s.cfg :=
  ⟨h.blockStep (i := .rxByte .irx b) (x := byteTxn .irx b) rfl trivial (exec_blockStep hexec),
    congrArg Prod.fst (exec_blockStep hexec).program_eq⟩

theorem zerosToEnd_lt_of_lengthByte (h : BlockInv s) (hexec : exec (.rxByte .irx 0) s = .next t)
    (hps : s.ps = .readLenLow ∨ s.ps = .readLenHigh) : t.zerosToEnd < s.zerosToEnd := by
  have htable := parserFollowsTransitionTable s t 0 h hexec
  obtain ⟨⟨-, -, hcounter, -⟩, hcfg⟩ := h.rxByte hexec
  rcases hps with hps | hps <;> simp only [parserAfter, hps] at htable
  · obtain ⟨hps', -⟩ := Prod.mk.inj htable
    rw [zerosToEnd_of_readLenHigh hps', zerosToEnd_of_readLenLow hps, hcfg]
    omega
  · have hle : t.zerosToEnd ≤ t.cfg.maxPayload := by
      split_ifs at htable <;> obtain ⟨hps', -⟩ := Prod.mk.inj htable <;>
        exact hcounter.zerosToEnd_le_maxPayload (by simp [hps']) (by simp [hps'])
    rw [zerosToEnd_of_readLenHigh hps, ← hcfg]
    omega

theorem zerosToEnd_lt_of_payloadByte (h : BlockInv s) (hexec : exec (.rxByte .irx 0) s = .next t) (hps : s.ps = .readData) :
    t.zerosToEnd < s.zerosToEnd := by
  have ⟨_, _, hcounter, _⟩ := h
  obtain ⟨hmax, hlt⟩ := hcounter.lt_length hps
  obtain ⟨hcur, -, -⟩ := h.parserOwns (by simp [hps])
  rw [zerosToEnd_of_readData hps]
  by_cases hlast : s.cnt + 1 = s.length s.cur
  · have htable := parserFollowsTransitionTable s t 0 h hexec
    simp only [parserAfter, hps, if_neg ((succ_eq_iff_not_lt hlt).1 hlast)] at htable
    rw [zerosToEnd_of_readCommand (Prod.mk.inj htable).1]
    omega
  · have hcnt : s.cnt.toNat < s.cfg.maxPayload := hlt.trans_le hmax
    cases (exec_rxByte_of_more hps hcur hcnt hlast 0).symm.trans hexec
    change (s.storeNext 0).zerosToEnd < _
    rw [zerosToEnd_storeNext hps hcnt hlt 0]
    omega

/-- R221: from the middle of a frame a zero byte completes, and brings the end nearer. -/
theorem exec_zero_of_inFrame (h : BlockInv s) (hps : s.ps ≠ .readCommand) :
    ∃ t, exec (.rxByte .irx 0) s = .next t ∧ BlockInv t ∧ t.zerosToEnd < s.zerosToEnd := by
  obtain ⟨t, hexec, -⟩ := rxByteNeverFaults s 0 h
  refine ⟨t, hexec, (h.rxByte hexec).1, ?_⟩
  cases hps' : s.ps with
  | readCommand => exact absurd hps' hps
  | readLenLow => exact zerosToEnd_lt_of_lengthByte h hexec (.inl hps')
  | readLenHigh => exact zerosToEnd_lt_of_lengthByte h hexec (.inr hps')
  | readData => exact zerosToEnd_lt_of_payloadByte h hexec hps'

theorem feed_zeros (h : BlockInv s) :
    ∃ n t, n ≤ s.zerosToEnd ∧ feed (List.replicate n 0) s = .next t ∧ BlockInv t ∧ t.ps = .readCommand := by
  induction hk : s.zerosToEnd using Nat.strong_induction_on generalizing s with
  | h k ih =>
    by_cases hps : s.ps = .readCommand
    · exact ⟨0, s, Nat.zero_le k, rfl, h, hps⟩
    · obtain ⟨t, hexec, ht, hlt⟩ := exec_zero_of_inFrame h hps
      obtain ⟨n, u, hn, hfeed, hu, hps'⟩ := ih t.zerosToEnd (hk ▸ hlt) ht rfl
      exact ⟨n + 1, u, by omega, (feed_cons_of_exec hexec _).trans hfeed, hu, hps'⟩

end

/-- Settles O20: by the bound on the zero bytes that are left, and R30 for what the parser holds. -/
theorem zerosEndAnyFrame : Obligations.ZerosEndAnyFrame := by
  intro s h
  have ⟨_, _, hcounter, _⟩ := h
  obtain ⟨n, t, hn, hfeed, ⟨-, hone, -⟩, hps⟩ := feed_zeros h
  exact ⟨n, t, hn.trans hcounter.zerosToEnd_le, hfeed, hps, hone.held_false hps⟩

end Sys2Proof.Machine
end

section
/-! PROOFS. Every operation is read back from its own transaction (R63, R69, R77, R131, R150): the rows of the tag table as ranges of
bytes, and for each kind of operand that its packing is undone. -/

namespace Sys2Proof.Machine

/-! The tag table (R63, R69). -/

/-- The mask of a row of R69 leaves the row's low bits open: what it tests is the number above them. -/
theorem tagMask_iff (b : Byte) :
    (b &&& 0xFE#8 = 0x0A#8 ↔ b.toNat / 2 = 5) ∧ (b &&& 0xFC#8 = 0x0C#8 ↔ b.toNat / 4 = 3) ∧
    (b &&& 0xF0#8 = 0x10#8 ↔ b.toNat / 16 = 1) ∧ (b &&& 0xE0#8 = 0x20#8 ↔ b.toNat / 32 = 1) ∧
    (b &&& 0xC0#8 = 0x40#8 ↔ b.toNat / 64 = 1) := by
  revert b
  decide

/-- Above the tags of R63 and 0x00 the rows of R69 are ranges of bytes. -/
theorem decodeTag_of_le (c : Ctx) {b : Byte} (hb : 10 ≤ b.toNat) : decodeTag c b =
    if b.toNat / 2 = 5 then .invalidTag0A c (b.extractLsb' 0 1)
    else if b.toNat / 4 = 3 then .invalidTag0C c (b.extractLsb' 0 2)
    else if b.toNat / 16 = 1 then .invalidTag10 c (b.extractLsb' 0 4)
    else if b.toNat / 32 = 1 then .invalidTag20 c (b.extractLsb' 0 5)
    else if b.toNat / 64 = 1 then .invalidTag40 c (b.extractLsb' 0 6)
    else .invalidTag80 c (b.extractLsb' 0 7) := by
  obtain ⟨h0A, h0C, h10, h20, h40⟩ := tagMask_iff b
  have hne : ∀ k : Byte, k.toNat < 10 → b ≠ k := by
    rintro k hk rfl
    omega
  simp only [decodeTag, h0A, h0C, h10, h20, h40]
  simp (disch := decide) only [if_neg (hne _ _)]

theorem toNat_ofNat_append (n m : Nat) {k : Nat} (x : BitVec k) :
    (BitVec.ofNat n m ++ x).toNat = m % 2 ^ n * 2 ^ k + x.toNat := by
  rw [toNat_append_eq_add, BitVec.toNat_ofNat]

/-- A byte made of a row's match and any low bits is in that row, with those bits (R69). -/
theorem decodeTag_append :
    (∀ (c : Ctx) (x : BitVec 1), decodeTag c (0b0000101#7 ++ x) = .invalidTag0A c x) ∧
    (∀ (c : Ctx) (x : BitVec 2), decodeTag c (0b000011#6 ++ x) = .invalidTag0C c x) ∧
    (∀ (c : Ctx) (x : BitVec 4), decodeTag c (0b0001#4 ++ x) = .invalidTag10 c x) ∧
    (∀ (c : Ctx) (x : BitVec 5), decodeTag c (0b001#3 ++ x) = .invalidTag20 c x) ∧
    (∀ (c : Ctx) (x : BitVec 6), decodeTag c (0b01#2 ++ x) = .invalidTag40 c x) ∧
    ∀ (c : Ctx) (x : BitVec 7), decodeTag c (0b1#1 ++ x) = .invalidTag80 c x := by
  refine ⟨?_, ?_, ?_, ?_, ?_, ?_⟩
  all_goals
    intro c x
    have hx := x.isLt
    rw [decodeTag_of_le c (by rw [toNat_ofNat_append]; omega), BitVec.extractLsb'_append_eq_right,
      toNat_ofNat_append]
    simp (disch := omega) only [if_pos, if_neg]

/-! Operands: a byte, a handle, the 17 bits of a pin and its direction, the three fields of BUF.READ. -/

theorem byteOperand_toNat (b : Byte) (k : Byte → Instr) : byteOperand b.toNat k = .ok (k b) := by
  rw [byteOperand, if_pos b.isLt, BitVec.ofNat_toNat, BitVec.setWidth_eq]

theorem handleOperand_of_fits {p : Params} {h : Nat} (hfits : handleFits p h = true) (k : Nat → Instr) :
    handleOperand p h k = .ok (k h) :=
  if_pos hfits

/-- A row of the tag table is read back from its own transaction, by whichever context (R63, R69, R161). -/
theorem decode_byteTxn {c : Ctx} {b : Byte} {i : Instr} (hrow : decodeTag c b = i) (p : Params) :
    decode p .readCommand (byteTxn c b) = .ok i := by
  rw [← hrow]
  cases c with
  | irx => exact byteOperand_toNat b (decodeByte .readCommand)
  | igpio | wdisp | wevt | platform | reentry => exact byteOperand_toNat b (decodeTag _)

/-- The three facts by which the pair is read back from its 17 bits (R130, R131). -/
theorem edgeBits_fields (pin : Half) (rising : Bool) : edgeBits pin rising < 2 ^ 17 ∧
    BitVec.ofNat 16 (edgeBits pin rising) = pin ∧ decide (2 ^ 16 ≤ edgeBits pin rising) = rising := by
  have hpin := pin.isLt
  cases rising with
  | false =>
    have hbits : edgeBits pin false = pin.toNat := Nat.zero_add _
    rw [hbits]
    exact ⟨by omega, by simp, decide_eq_false (by omega)⟩
  | true =>
    have hbits : edgeBits pin true = 2 ^ 16 + pin.toNat := rfl
    rw [hbits]
    exact ⟨by omega, BitVec.eq_of_toNat_eq (by rw [BitVec.toNat_ofNat]; omega), decide_eq_true (by omega)⟩

theorem decode_edgeBits (p : Params) (ps : ParserState) (c : Ctx) (pin : Half) (rising : Bool) :
    decode p ps { port := .edge, ctx := c, data := edgeBits pin rising } = .ok (.edge c pin rising) := by
  obtain ⟨hlt, hpin, hrising⟩ := edgeBits_fields pin rising
  simp only [decode, if_pos hlt, hpin, hrising]

theorem decodeWord_edgeBits (c : Ctx) (pin : Half) (rising : Bool) :
    decodeWord c (edgeBits pin rising) = .ok (.eventWord c rising pin) := by
  obtain ⟨hlt, hpin, hrising⟩ := edgeBits_fields pin rising
  rw [decodeWord, if_neg (by omega), if_neg (by omega), hpin, hrising]

/-- Selector, offset and handle of BUF.READ are read back from the number that packs them (R44). -/
theorem unpack_bufReadBits {n : Nat} (h off sel : Nat) (hn : n = h * 262144 + off * 4 + sel) (hoff : off < 65536)
    (hsel : sel < 4) : n % 4 = sel ∧ n / 4 % 65536 = off ∧ n / 262144 = h := by
  omega

theorem decodeBufRead_bufReadBits {p : Params} {h : Nat} {f : BufField} (hfits : handleFits p h = true)
    (hfield : fieldFits p f = true) (c : Ctx) : decodeBufRead p c (bufReadBits h f) = .ok (.bufRead c h f) := by
  cases f with
  | command =>
    obtain ⟨hsel, hoff, hh⟩ := unpack_bufReadBits (n := bufReadBits h .command) h 0 0 (by simp [bufReadBits])
      (by decide) (by decide)
    simp [decodeBufRead, hsel, hoff, hh, hfits]
  | length =>
    obtain ⟨hsel, hoff, hh⟩ := unpack_bufReadBits (n := bufReadBits h .length) h 0 1 (by simp [bufReadBits])
      (by decide) (by decide)
    simp [decodeBufRead, hsel, hoff, hh, hfits]
  | payload off =>
    obtain ⟨hsel, hoff, hh⟩ := unpack_bufReadBits (n := bufReadBits h (.payload off)) h off.toNat 2 rfl off.isLt (by decide)
    have hmax : off.toNat < p.maxPayload := of_decide_eq_true hfield
    simp [decodeBufRead, hsel, hoff, hh, hfits, hmax]

/-- Settles O53: the rows of the tag table by their bytes, every other operation by its own port. -/
theorem decodeOfEncode : Obligations.DecodeOfEncode := by
  intro p i hwf
  obtain ⟨h0A, h0C, h10, h20, h40, h80⟩ := decodeTag_append
  cases i with
  | spiSetup | spiSetupAnswer | spiTransfer | spiTransferAnswer | interruptRegister | interruptRegisterAnswer
  | interruptEvent | wireReset | resetAnswer | invalidTag00 => exact decode_byteTxn rfl p
  | invalidTag0A c x => exact decode_byteTxn (h0A c x) p
  | invalidTag0C c x => exact decode_byteTxn (h0C c x) p
  | invalidTag10 c x => exact decode_byteTxn (h10 c x) p
  | invalidTag20 c x => exact decode_byteTxn (h20 c x) p
  | invalidTag40 c x => exact decode_byteTxn (h40 c x) p
  | invalidTag80 c x => exact decode_byteTxn (h80 c x) p
  | rxReadLenLow b | rxReadLenHigh b | rxReadData b | rxByte c b => exact byteOperand_toNat b _
  | edge c pin rising => exact decode_edgeBits p _ c pin rising
  | eventWord c rising pin => exact decodeWord_edgeBits c pin rising
  | poolRelease c h | pqTryPut c h | handle c h => exact handleOperand_of_fits hwf _
  | bufRead c h f =>
    obtain ⟨hfits, hfield⟩ := Bool.and_eq_true_iff.1 hwf
    exact decodeBufRead_bufReadBits hfits hfield c
  | eqTryPut c x => simp only [encode, decode, if_pos x.isLt, BitVec.ofNat_toNat, BitVec.setWidth_eq]
  | poolAlloc | pqGet | eqGet | blockReset | emit | abort => rfl

end Sys2Proof.Machine
end
